-- ==== Sys2Proof/Word.lean ====
section
/-! DEFINITION. The machine's two data widths and the number of a general register
(00_scope.md R9, R17: every value is unsigned; 10_state.md R31). -/

namespace Sys2Proof

/-- One byte: a general register, a timer, an immediate `kk` or a cell of `mem` (R9). -/
abbrev Byte := BitVec 8

/-- Sixteen bits: an instruction word, `I`, `PC` and a stack entry (R9, R10). -/
abbrev Word := BitVec 16

/-- The number of a general register, `V0` to `VF` (R31).  A register number is only ever an index. -/
abbrev Reg := Fin 16

/-- `VF`, register 15, the flag register (R34). -/
abbrev vF : Reg := 15

end Sys2Proof
end

