-- ==== Sys2Proof/Syntax.lean ====
section
/-! DEFINITION. The 35 instructions of 30_encoding.md R110, one constructor per row of the opcode map in
the map's order, with the operands of R101 to R103, and the names under which decoding can fail. -/

namespace Sys2Proof

/-- An instruction.  The operand names are those of 00_scope.md R21.  Where a row has bits that "a handler
ignores" (`_` in R110) the constructor carries them as `ign`, so that a word can be rebuilt from its
instruction: the diagnostic record shows the whole fetched word (R271).  No meaning reads `ign` for
anything else. -/
inductive Instr where
  /-- Row 1, `0nnn` `SYS nnn` (40_cycle_dispatch.md R137). -/
  | sys (nnn : BitVec 12)
  /-- Row 2, `0_E0` `CLS` (44_display.md R230). -/
  | cls (ign : BitVec 4)
  /-- Row 3, `0_EE` `RET` (41_flow.md R152). -/
  | ret (ign : BitVec 4)
  /-- Row 4, `1nnn` `JP nnn` (R150). -/
  | jp (nnn : BitVec 12)
  /-- Row 5, `2nnn` `CALL nnn` (R151). -/
  | call (nnn : BitVec 12)
  /-- Row 6, `3xkk` `SE Vx, kk` (R153). -/
  | seByte (x : Reg) (kk : Byte)
  /-- Row 7, `4xkk` `SNE Vx, kk` (R154). -/
  | sneByte (x : Reg) (kk : Byte)
  /-- Row 8, `5xy_` `SE Vx, Vy` (R155). -/
  | seReg (x y : Reg) (ign : BitVec 4)
  /-- Row 9, `6xkk` `LD Vx, kk` (42_alu.md R180). -/
  | ldByte (x : Reg) (kk : Byte)
  /-- Row 10, `7xkk` `ADD Vx, kk` (R181). -/
  | addByte (x : Reg) (kk : Byte)
  /-- Row 11, `8xy0` `LD Vx, Vy` (R182). -/
  | ldReg (x y : Reg)
  /-- Row 12, `8xy1` `OR Vx, Vy` (R183). -/
  | orReg (x y : Reg)
  /-- Row 13, `8xy2` `AND Vx, Vy` (R184). -/
  | andReg (x y : Reg)
  /-- Row 14, `8xy3` `XOR Vx, Vy` (R185). -/
  | xorReg (x y : Reg)
  /-- Row 15, `8xy4` `ADD Vx, Vy` (R186). -/
  | addReg (x y : Reg)
  /-- Row 16, `8xy5` `SUB Vx, Vy` (R187). -/
  | sub (x y : Reg)
  /-- Row 17, `8xy6` `SHR Vx {, Vy}` (R188). -/
  | shr (x y : Reg)
  /-- Row 18, `8xy7` `SUBN Vx, Vy` (R189). -/
  | subn (x y : Reg)
  /-- Row 19, `8xyE` `SHL Vx {, Vy}` (R190). -/
  | shl (x y : Reg)
  /-- Row 20, `9xy_` `SNE Vx, Vy` (R156). -/
  | sneReg (x y : Reg) (ign : BitVec 4)
  /-- Row 21, `Annn` `LD I, nnn` (43_index_memory.md R210). -/
  | ldI (nnn : BitVec 12)
  /-- Row 22, `Bnnn` `JP V0, nnn` (R157). -/
  | jpV0 (nnn : BitVec 12)
  /-- Row 23, `Cxkk` `RND Vx, kk` (R192). -/
  | rnd (x : Reg) (kk : Byte)
  /-- Row 24, `Dxyn` `DRW Vx, Vy, n` (R231). -/
  | drw (x y : Reg) (n : BitVec 4)
  /-- Row 25, `Ex9E` `SKP Vx` (45_timers_keys.md R250). -/
  | skp (x : Reg)
  /-- Row 26, `ExA1` `SKNP Vx` (R251). -/
  | sknp (x : Reg)
  /-- Row 27, `Fx07` `LD Vx, DT` (R252). -/
  | ldVxDt (x : Reg)
  /-- Row 28, `Fx0A` `LD Vx, K` (R257). -/
  | ldVxK (x : Reg)
  /-- Row 29, `Fx15` `LD DT, Vx` (R253). -/
  | ldDtVx (x : Reg)
  /-- Row 30, `Fx18` `LD ST, Vx` (R254). -/
  | ldStVx (x : Reg)
  /-- Row 31, `Fx1E` `ADD I, Vx` (R211). -/
  | addI (x : Reg)
  /-- Row 32, `Fx29` `LD F, Vx` (R212). -/
  | ldF (x : Reg)
  /-- Row 33, `Fx33` `LD B, Vx` (R213). -/
  | ldB (x : Reg)
  /-- Row 34, `Fx55` `LD [I], Vx` (R214). -/
  | storeRegs (x : Reg)
  /-- Row 35, `Fx65` `LD Vx, [I]` (R215). -/
  | loadRegs (x : Reg)
  deriving DecidableEq, Repr

/-- Why a word or a byte sequence is no instruction: "an unresolved sub-level lookup" in one of the three
groups of 30_encoding.md R112, with the sub-key that has no row, or too few bytes for one word (R100). -/
inductive DecodeReject where
  /-- Group 0x8, low nibble 8 to D or F. -/
  | noRowInGroup8 (n : BitVec 4)
  /-- Group 0xE, low byte neither 9E nor A1. -/
  | noRowInGroupE (kk : Byte)
  /-- Group 0xF, low byte none of the nine sub-keys. -/
  | noRowInGroupF (kk : Byte)
  /-- Fewer than the two bytes of an instruction word. -/
  | truncated
  deriving DecidableEq, Repr

/-- One row of the opcode map: the row matches a word `op` when `op & mask = pattern` (R110). -/
structure OpcodeRow where
  mask : Word
  pattern : Word
  deriving DecidableEq, Repr

end Sys2Proof
end

