-- ==== Sys2Proof/WellFormed.lean ====
section
/-! DEFINITION. Which terms of `Instr` stand for an instruction of the machine.  The types of the operands
already keep every field in its width (R101); what is left is the fallback rule of R110. -/

namespace Sys2Proof

/-- Row 1 is a fallback: it "matches exactly when `g = 0x0` and neither row 2 nor row 3 matches"
(30_encoding.md R111), so the low byte of a SYS operand is neither 0xE0 (CLS) nor 0xEE (RET). -/
def sysOperandOk (nnn : BitVec 12) : Bool :=
  nnn.toNat % 0x100 != 0xE0 && nnn.toNat % 0x100 != 0xEE

/-- A well-formed instruction. -/
def Instr.wf : Instr → Bool
  | .sys nnn => sysOperandOk nnn
  | .cls _ => true
  | .ret _ => true
  | .jp _ => true
  | .call _ => true
  | .seByte _ _ => true
  | .sneByte _ _ => true
  | .seReg _ _ _ => true
  | .ldByte _ _ => true
  | .addByte _ _ => true
  | .ldReg _ _ => true
  | .orReg _ _ => true
  | .andReg _ _ => true
  | .xorReg _ _ => true
  | .addReg _ _ => true
  | .sub _ _ => true
  | .shr _ _ => true
  | .subn _ _ => true
  | .shl _ _ => true
  | .sneReg _ _ _ => true
  | .ldI _ => true
  | .jpV0 _ => true
  | .rnd _ _ => true
  | .drw _ _ _ => true
  | .skp _ => true
  | .sknp _ => true
  | .ldVxDt _ => true
  | .ldVxK _ => true
  | .ldDtVx _ => true
  | .ldStVx _ => true
  | .addI _ => true
  | .ldF _ => true
  | .ldB _ => true
  | .storeRegs _ => true
  | .loadRegs _ => true

end Sys2Proof
end

