-- ==== Sys2Proof/Decode.lean ====
section
/-! DEFINITION. The two-level decoder of 30_encoding.md R104 to R106, total on every word and on every byte
sequence, and the encoder written from the opcode map of R110.

Words are taken apart and put together by arithmetic on their unsigned value, a field `op[hi:lo]` being
`op / 2^lo mod 2^(hi-lo+1)` (00_scope.md R16). -/

namespace Sys2Proof

/-- The instruction word of two bytes, "high byte at the lower address" (20_memory.md R73). -/
def wordOfBytes (hi lo : Byte) : Word := BitVec.ofNat 16 (hi.toNat * 0x100 + lo.toNat)

/-- The byte of a word at the lower address, `op[15:8]`. -/
def highByte (op : Word) : Byte := BitVec.ofNat 8 (op.toNat / 0x100)

/-- The byte of a word at the higher address, `op[7:0]`. -/
def lowByte (op : Word) : Byte := BitVec.ofNat 8 op.toNat

/-- The group `g = op[15:12]` (R101). -/
def groupOf (op : Word) : Nat := op.toNat / 0x1000

/-- `nnn = op[11:0]` (R101). -/
def nnnOf (op : Word) : BitVec 12 := BitVec.ofNat 12 op.toNat

/-- `x = op[11:8]` as a register number (R101). -/
def xOf (op : Word) : Reg := Fin.ofNat 16 (op.toNat / 0x100)

/-- `y = op[7:4]` as a register number (R101). -/
def yOf (op : Word) : Reg := Fin.ofNat 16 (op.toNat / 0x10)

/-- `n = op[3:0]` (R101). -/
def nOf (op : Word) : BitVec 4 := BitVec.ofNat 4 op.toNat

/-- `kk = op[7:0]` (R101). -/
def kkOf (op : Word) : Byte := BitVec.ofNat 8 op.toNat

/-- Bits 11..8 where no field lies there: ignored in group 0x0 (R104). -/
def ignOf (op : Word) : BitVec 4 := BitVec.ofNat 4 (op.toNat / 0x100)

/-- Group 0x0 keys on the low byte; what has no row there is SYS (R104, R110 rows 1 to 3). -/
def decodeGroup0 (op : Word) : Instr :=
  match (kkOf op).toNat with
  | 0xE0 => .cls (ignOf op)
  | 0xEE => .ret (ignOf op)
  | _ => .sys (nnnOf op)

/-- Group 0x8 keys on the low nibble (R104, R110 rows 11 to 19). -/
def decodeGroup8 (op : Word) : Except DecodeReject Instr :=
  match (nOf op).toNat with
  | 0x0 => .ok (.ldReg (xOf op) (yOf op))
  | 0x1 => .ok (.orReg (xOf op) (yOf op))
  | 0x2 => .ok (.andReg (xOf op) (yOf op))
  | 0x3 => .ok (.xorReg (xOf op) (yOf op))
  | 0x4 => .ok (.addReg (xOf op) (yOf op))
  | 0x5 => .ok (.sub (xOf op) (yOf op))
  | 0x6 => .ok (.shr (xOf op) (yOf op))
  | 0x7 => .ok (.subn (xOf op) (yOf op))
  | 0xE => .ok (.shl (xOf op) (yOf op))
  | _ => .error (.noRowInGroup8 (nOf op))

/-- Group 0xE keys on the low byte (R104, R110 rows 25 and 26). -/
def decodeGroupE (op : Word) : Except DecodeReject Instr :=
  match (kkOf op).toNat with
  | 0x9E => .ok (.skp (xOf op))
  | 0xA1 => .ok (.sknp (xOf op))
  | _ => .error (.noRowInGroupE (kkOf op))

/-- Group 0xF keys on the low byte (R104, R110 rows 27 to 35). -/
def decodeGroupF (op : Word) : Except DecodeReject Instr :=
  match (kkOf op).toNat with
  | 0x07 => .ok (.ldVxDt (xOf op))
  | 0x0A => .ok (.ldVxK (xOf op))
  | 0x15 => .ok (.ldDtVx (xOf op))
  | 0x18 => .ok (.ldStVx (xOf op))
  | 0x1E => .ok (.addI (xOf op))
  | 0x29 => .ok (.ldF (xOf op))
  | 0x33 => .ok (.ldB (xOf op))
  | 0x55 => .ok (.storeRegs (xOf op))
  | 0x65 => .ok (.loadRegs (xOf op))
  | _ => .error (.noRowInGroupF (kkOf op))

/-- The decoder: a pure function of the word alone (R106).  The high nibble selects one of 16 groups; the
groups 0x1 to 0x7 and 0x9 to 0xD have no second lookup (R105). -/
def decodeWord (op : Word) : Except DecodeReject Instr :=
  match groupOf op with
  | 0x0 => .ok (decodeGroup0 op)
  | 0x1 => .ok (.jp (nnnOf op))
  | 0x2 => .ok (.call (nnnOf op))
  | 0x3 => .ok (.seByte (xOf op) (kkOf op))
  | 0x4 => .ok (.sneByte (xOf op) (kkOf op))
  | 0x5 => .ok (.seReg (xOf op) (yOf op) (nOf op))
  | 0x6 => .ok (.ldByte (xOf op) (kkOf op))
  | 0x7 => .ok (.addByte (xOf op) (kkOf op))
  | 0x8 => decodeGroup8 op
  | 0x9 => .ok (.sneReg (xOf op) (yOf op) (nOf op))
  | 0xA => .ok (.ldI (nnnOf op))
  | 0xB => .ok (.jpV0 (nnnOf op))
  | 0xC => .ok (.rnd (xOf op) (kkOf op))
  | 0xD => .ok (.drw (xOf op) (yOf op) (nOf op))
  | 0xE => decodeGroupE op
  | _ => decodeGroupF op

/-- Decoding bytes as they stand in memory: the first two are the word, high byte first (R100), the rest
is handed back. -/
def decode : List Byte → Except DecodeReject (Instr × List Byte)
  | hi :: lo :: rest => (decodeWord (wordOfBytes hi lo)).map fun i => (i, rest)
  | _ => .error .truncated

/-- A word of format `addr` (R102). -/
def addrWord (g : Nat) (nnn : BitVec 12) : Word := BitVec.ofNat 16 (g * 0x1000 + nnn.toNat)

/-- A word of format `reg_byte`, and of format `reg` with `kk` the sub-key (R102). -/
def regByteWord (g : Nat) (x : Reg) (kk : Byte) : Word :=
  BitVec.ofNat 16 (g * 0x1000 + x.val * 0x100 + kk.toNat)

/-- A word of format `reg_reg_nib`, and of format `reg_reg` with `n` the sub-key or ignored (R102). -/
def regRegWord (g : Nat) (x y : Reg) (n : BitVec 4) : Word :=
  BitVec.ofNat 16 (g * 0x1000 + x.val * 0x100 + y.val * 0x10 + n.toNat)

/-- A word of format `none` in group 0x0: bits 11..8 ignored, `kk` the sub-key (R102). -/
def noneWord (ign : BitVec 4) (kk : Byte) : Word := BitVec.ofNat 16 (ign.toNat * 0x100 + kk.toNat)

/-- The word of an instruction, row by row of the opcode map (R110). -/
def encode : Instr → Word
  | .sys nnn => addrWord 0x0 nnn
  | .cls ign => noneWord ign 0xE0
  | .ret ign => noneWord ign 0xEE
  | .jp nnn => addrWord 0x1 nnn
  | .call nnn => addrWord 0x2 nnn
  | .seByte x kk => regByteWord 0x3 x kk
  | .sneByte x kk => regByteWord 0x4 x kk
  | .seReg x y ign => regRegWord 0x5 x y ign
  | .ldByte x kk => regByteWord 0x6 x kk
  | .addByte x kk => regByteWord 0x7 x kk
  | .ldReg x y => regRegWord 0x8 x y 0x0
  | .orReg x y => regRegWord 0x8 x y 0x1
  | .andReg x y => regRegWord 0x8 x y 0x2
  | .xorReg x y => regRegWord 0x8 x y 0x3
  | .addReg x y => regRegWord 0x8 x y 0x4
  | .sub x y => regRegWord 0x8 x y 0x5
  | .shr x y => regRegWord 0x8 x y 0x6
  | .subn x y => regRegWord 0x8 x y 0x7
  | .shl x y => regRegWord 0x8 x y 0xE
  | .sneReg x y ign => regRegWord 0x9 x y ign
  | .ldI nnn => addrWord 0xA nnn
  | .jpV0 nnn => addrWord 0xB nnn
  | .rnd x kk => regByteWord 0xC x kk
  | .drw x y n => regRegWord 0xD x y n
  | .skp x => regByteWord 0xE x 0x9E
  | .sknp x => regByteWord 0xE x 0xA1
  | .ldVxDt x => regByteWord 0xF x 0x07
  | .ldVxK x => regByteWord 0xF x 0x0A
  | .ldDtVx x => regByteWord 0xF x 0x15
  | .ldStVx x => regByteWord 0xF x 0x18
  | .addI x => regByteWord 0xF x 0x1E
  | .ldF x => regByteWord 0xF x 0x29
  | .ldB x => regByteWord 0xF x 0x33
  | .storeRegs x => regByteWord 0xF x 0x55
  | .loadRegs x => regByteWord 0xF x 0x65

/-- The bytes of an instruction as memory holds them (R100). -/
def encodeBytes (i : Instr) : List Byte := [highByte (encode i), lowByte (encode i)]

/-- The mask and pattern of an instruction's row in the opcode map (R110). -/
def rowOf : Instr → OpcodeRow
  | .sys _ => ⟨0xF000, 0x0000⟩
  | .cls _ => ⟨0xF0FF, 0x00E0⟩
  | .ret _ => ⟨0xF0FF, 0x00EE⟩
  | .jp _ => ⟨0xF000, 0x1000⟩
  | .call _ => ⟨0xF000, 0x2000⟩
  | .seByte _ _ => ⟨0xF000, 0x3000⟩
  | .sneByte _ _ => ⟨0xF000, 0x4000⟩
  | .seReg _ _ _ => ⟨0xF000, 0x5000⟩
  | .ldByte _ _ => ⟨0xF000, 0x6000⟩
  | .addByte _ _ => ⟨0xF000, 0x7000⟩
  | .ldReg _ _ => ⟨0xF00F, 0x8000⟩
  | .orReg _ _ => ⟨0xF00F, 0x8001⟩
  | .andReg _ _ => ⟨0xF00F, 0x8002⟩
  | .xorReg _ _ => ⟨0xF00F, 0x8003⟩
  | .addReg _ _ => ⟨0xF00F, 0x8004⟩
  | .sub _ _ => ⟨0xF00F, 0x8005⟩
  | .shr _ _ => ⟨0xF00F, 0x8006⟩
  | .subn _ _ => ⟨0xF00F, 0x8007⟩
  | .shl _ _ => ⟨0xF00F, 0x800E⟩
  | .sneReg _ _ _ => ⟨0xF000, 0x9000⟩
  | .ldI _ => ⟨0xF000, 0xA000⟩
  | .jpV0 _ => ⟨0xF000, 0xB000⟩
  | .rnd _ _ => ⟨0xF000, 0xC000⟩
  | .drw _ _ _ => ⟨0xF000, 0xD000⟩
  | .skp _ => ⟨0xF0FF, 0xE09E⟩
  | .sknp _ => ⟨0xF0FF, 0xE0A1⟩
  | .ldVxDt _ => ⟨0xF0FF, 0xF007⟩
  | .ldVxK _ => ⟨0xF0FF, 0xF00A⟩
  | .ldDtVx _ => ⟨0xF0FF, 0xF015⟩
  | .ldStVx _ => ⟨0xF0FF, 0xF018⟩
  | .addI _ => ⟨0xF0FF, 0xF01E⟩
  | .ldF _ => ⟨0xF0FF, 0xF029⟩
  | .ldB _ => ⟨0xF0FF, 0xF033⟩
  | .storeRegs _ => ⟨0xF0FF, 0xF055⟩
  | .loadRegs _ => ⟨0xF0FF, 0xF065⟩

/-- Rows 2 to 35 of the opcode map, in the map's order (R110). -/
def opcodeRows : List OpcodeRow :=
  [⟨0xF0FF, 0x00E0⟩, ⟨0xF0FF, 0x00EE⟩, ⟨0xF000, 0x1000⟩, ⟨0xF000, 0x2000⟩, ⟨0xF000, 0x3000⟩,
   ⟨0xF000, 0x4000⟩, ⟨0xF000, 0x5000⟩, ⟨0xF000, 0x6000⟩, ⟨0xF000, 0x7000⟩] ++
  [⟨0xF00F, 0x8000⟩, ⟨0xF00F, 0x8001⟩, ⟨0xF00F, 0x8002⟩, ⟨0xF00F, 0x8003⟩, ⟨0xF00F, 0x8004⟩,
   ⟨0xF00F, 0x8005⟩, ⟨0xF00F, 0x8006⟩, ⟨0xF00F, 0x8007⟩, ⟨0xF00F, 0x800E⟩] ++
  [⟨0xF000, 0x9000⟩, ⟨0xF000, 0xA000⟩, ⟨0xF000, 0xB000⟩, ⟨0xF000, 0xC000⟩, ⟨0xF000, 0xD000⟩,
   ⟨0xF0FF, 0xE09E⟩, ⟨0xF0FF, 0xE0A1⟩] ++
  [⟨0xF0FF, 0xF007⟩, ⟨0xF0FF, 0xF00A⟩, ⟨0xF0FF, 0xF015⟩, ⟨0xF0FF, 0xF018⟩, ⟨0xF0FF, 0xF01E⟩,
   ⟨0xF0FF, 0xF029⟩, ⟨0xF0FF, 0xF033⟩, ⟨0xF0FF, 0xF055⟩, ⟨0xF0FF, 0xF065⟩]

/-- A word matches a row: `(op & mask) == match` (R110). -/
def OpcodeRow.covers (r : OpcodeRow) (op : Word) : Bool := op &&& r.mask == r.pattern

/-- The word of a table row given as `nbits` bits `w`, the first word's bits lowest. -/
def tableWord (nbits w : Nat) : Word := BitVec.ofNat 16 (w % 2 ^ nbits)

/-- What the decoder reads from the bytes of a table word as memory holds them, high byte first (R73). -/
def decodeTableWord (nbits w : Nat) : Option Instr :=
  match decode [highByte (tableWord nbits w), lowByte (tableWord nbits w)] with
  | .ok (i, _) => some i
  | .error _ => none

end Sys2Proof
end

