-- ==== Sys2Proof/Config.lean ====
section
/-! DEFINITION. The configuration parameters of 00_scope.md R11 to R14, and the one free value of the
spec, the random draw of R15. -/

namespace Sys2Proof

/-- The four parameters "taken at reset" which "stay fixed until the next reset"
(70_reset_and_hazards.md R300). -/
structure Config where
  /-- `TEST_MODE` (R11): a RET on an empty stack halts. -/
  testMode : Bool
  /-- `SHIFT_READS_VY` (R13): SHR and SHL read `V[y]` instead of `V[x]`. -/
  shiftReadsVy : Bool
  /-- `STACK_FAULT_FATAL` (R14): a stack overflow or underflow halts. -/
  stackFaultFatal : Bool
  /-- `FONTSET` (R12): the 80 bytes that reset puts at 0x000 to 0x04F. -/
  fontset : Vector Byte 80
  deriving DecidableEq, Repr

/-- The default `FONTSET` of 20_memory.md R77, glyphs 0 to 7, which the spec itself supplies
"from general knowledge, not in source" (log entry 4). -/
def Config.fontLow : List Byte :=
  [0xF0, 0x90, 0x90, 0x90, 0xF0] ++ [0x20, 0x60, 0x20, 0x20, 0x70] ++
  [0xF0, 0x10, 0xF0, 0x80, 0xF0] ++ [0xF0, 0x10, 0xF0, 0x10, 0xF0] ++
  [0x90, 0x90, 0xF0, 0x10, 0x10] ++ [0xF0, 0x80, 0xF0, 0x10, 0xF0] ++
  [0xF0, 0x80, 0xF0, 0x90, 0xF0] ++ [0xF0, 0x10, 0x20, 0x40, 0x40]

/-- The default `FONTSET` of R77, glyphs 8 to F. -/
def Config.fontHigh : List Byte :=
  [0xF0, 0x90, 0xF0, 0x90, 0xF0] ++ [0xF0, 0x90, 0xF0, 0x10, 0xF0] ++
  [0xF0, 0x90, 0xF0, 0x90, 0x90] ++ [0xE0, 0x90, 0xE0, 0x90, 0xE0] ++
  [0xF0, 0x80, 0x80, 0x80, 0xF0] ++ [0xE0, 0x90, 0x90, 0x90, 0xE0] ++
  [0xF0, 0x80, 0xF0, 0x80, 0xF0] ++ [0xF0, 0x80, 0xF0, 0x80, 0x80]

/-- The stated defaults: `TEST_MODE`, `SHIFT_READS_VY` and `STACK_FAULT_FATAL` false (R13, R14 and the
conventions of 95_test_vectors.md), and the conventional font (R12, R77). -/
def Config.default : Config where
  testMode := false
  shiftReadsVy := false
  stackFaultFatal := false
  fontset := ⟨(Config.fontLow ++ Config.fontHigh).toArray, by decide⟩

/-- The draw of the `k`-th execution of RND: "a model treats each value as a free draw under no law"
(R15; 42_alu.md R192).  It has no body that a proof can look into; log entry 1 (free value). -/
opaque Config.rndDraw : Nat → Byte

end Sys2Proof
end

