-- ==== Sys2Proof/Machine/State.lean ====
section
/-! DEFINITION. The state of the core as 10_state.md R30 lists it, the reasons a step could stop, the state
after reset (10_state.md R50), and the plain updates of one field. -/

namespace Sys2Proof.Machine

/-- The cycle FSM between cycles (40_cycle_dispatch.md R130). -/
inductive Fsm where
  | ready
  | halted
  deriving DecidableEq, Repr

/-- The diagnostics of 60_exceptions.md R271.  They are records, not traps: the cycle that raises one goes on
(R270). -/
inductive Diag where
  /-- Code 0: no diagnostic has been recorded since reset. -/
  | none
  /-- Code 1: an unresolved word, or SYS. -/
  | unknownOpcode
  /-- Code 2: CALL with `sp` = 16. -/
  | stackOverflow
  /-- Code 3: RET with `sp` = 0. -/
  | stackUnderflow
  /-- Code 4: DRW with `I + n` > 4096. -/
  | spriteOutOfBounds
  /-- Code 5: LD B, LD [I],Vx or LD Vx,[I] with a byte beyond 4095. -/
  | memOutOfBounds
  /-- Code 6: SKP or SKNP with `V[x]` > 15. -/
  | keyIndexOutOfRange
  /-- Code 7: the fetch guard. -/
  | fetchOutOfBounds
  deriving DecidableEq, Repr

/-- The diagnostic record of the last cycle (10_state.md R45; log entry 14). -/
structure DiagRecord where
  valid : Bool
  code : Diag
  pc : Word
  opcode : Word
  deriving DecidableEq, Repr

/-- `mem`: the bytes that differ from what reset put at their address, by rising address, none listed twice
(log entry 3).  `Memory.wf` in Machine/Ops.lean is this form. -/
abbrev Memory := List Host.Cell

/-- `fb`, one word of 64 pixels a row, 32 rows from the top: pixel (`x`, `y`) is bit `x` of row `y`
(10_state.md R41; log entry 13). -/
abbrev Framebuffer := Vector (BitVec 64) 32

/-- Everything the core holds between cycles (R30), the parameters taken at reset (log entry 2) and the
model's own count of random draws (log entry 1). -/
structure State where
  /-- `TEST_MODE`, `FONTSET`, `SHIFT_READS_VY`, `STACK_FAULT_FATAL` as taken at reset (R300). -/
  cfg : Config
  /-- `mem[0..4095]` (20_memory.md R70). -/
  mem : Memory
  /-- `V[0..15]` (R31). -/
  v : Vector Byte 16
  /-- `I` (R35). -/
  idx : Word
  /-- `PC` (R36). -/
  pc : Word
  /-- `stack[0..15]` (R39). -/
  stack : Vector Word 16
  /-- `sp`, "the count of entries currently pushed", 0 to 16 (R38, log entry 6). -/
  sp : Fin 17
  /-- `DT` (R40). -/
  dt : Byte
  /-- `ST` (R40). -/
  st : Byte
  /-- `fb` (R41). -/
  fb : Framebuffer
  /-- `key[0..15]`, key `k` being bit `k` as `write_keys` passes it (R42, R62; log entry 13). -/
  key : BitVec 16
  /-- `draw_flag` (R43). -/
  drawFlag : Bool
  /-- `fsm` (R45). -/
  fsm : Fsm
  /-- `diag_valid`, `diag_code`, `diag_pc`, `diag_opcode` (R45). -/
  diag : DiagRecord
  /-- The model's own field: how many draws RND has taken (log entry 1). -/
  draws : Nat
  deriving DecidableEq, Repr

/-- The machine right after a reset that takes the parameters `c` (10_state.md R50; 70_reset_and_hazards.md
R300).  No memory cell is listed: `mem` reads as reset leaves it. -/
def State.resetWith (c : Config) : State where
  cfg := c
  mem := []
  v := Vector.replicate 16 0
  idx := 0
  pc := 0x200
  stack := Vector.replicate 16 0
  sp := 0
  dt := 0
  st := 0
  fb := Vector.replicate 32 0
  key := 0
  drawFlag := false
  fsm := .ready
  diag := { valid := false, code := .none, pc := 0, opcode := 0 }
  draws := 0

/-- The machine right after reset with the stated default parameters (R12 to R14). -/
def State.reset : State := State.resetWith Config.default

/-- The conditions under which a step stops without a next state: the spec has NONE.  "All per-cycle anomalies
are recovered locally (logged, non-fatal)" (60_exceptions.md R270), there are no traps (R280), and HALTED is
a state (40_cycle_dispatch.md R130).  So no constructor, and no step can answer a fault: safe, nothing is
lost by a stop (log entry 8). -/
inductive Fault where
  deriving DecidableEq, Repr

/-- Why an instruction has no meaning. -/
inductive Refusal where
  /-- Raised by an arm of `exec` whose instruction is not modelled; no arm of this model raises it.  Safe: a
  refused step claims nothing. -/
  | notModelled (mnemonic : String)
  deriving DecidableEq, Repr

/-- What executing an instruction answers. -/
abbrev Result := Host.Outcome State Fault Refusal

def State.setMem (s : State) (m : Memory) : State := { s with mem := m }
def State.setV (s : State) (v : Vector Byte 16) : State := { s with v := v }
def State.setIdx (s : State) (w : Word) : State := { s with idx := w }
def State.setPc (s : State) (w : Word) : State := { s with pc := w }
def State.setStack (s : State) (k : Vector Word 16) : State := { s with stack := k }
def State.setSp (s : State) (n : Fin 17) : State := { s with sp := n }
def State.setDt (s : State) (b : Byte) : State := { s with dt := b }
def State.setSt (s : State) (b : Byte) : State := { s with st := b }
def State.setFb (s : State) (f : Framebuffer) : State := { s with fb := f }
def State.setKey (s : State) (k : BitVec 16) : State := { s with key := k }
def State.setDrawFlag (s : State) (b : Bool) : State := { s with drawFlag := b }
def State.setFsm (s : State) (f : Fsm) : State := { s with fsm := f }
def State.setDiag (s : State) (d : DiagRecord) : State := { s with diag := d }
def State.setDraws (s : State) (n : Nat) : State := { s with draws := n }

end Sys2Proof.Machine
end

