-- ==== Sys2Proof/Machine/Ops.lean ====
section
/-! DEFINITION. The named operations over memory, registers, stack, program counter and diagnostics.
Taking an exception does not exist on this core (60_exceptions.md R280); what stands in its place is
recording a diagnostic (`State.raise`) and halting (`State.halt`), once each, here. -/

namespace Sys2Proof.Machine

/-- The size of `mem`: addresses 0 to 4095 (20_memory.md R70). -/
def memSize : Nat := 4096

/-- What an address that `mem` does not list reads as: what reset put there, `FONTSET` at 0x000 to 0x04F and
0x00 elsewhere (10_state.md R50). -/
def resetByte (c : Config) (a : Nat) : Byte :=
  if h : a < 80 then c.fontset[a] else 0

/-- The listed byte of an address, if it is listed. -/
def Memory.lookup : Memory → Nat → Option Byte
  | [], _ => none
  | (b, w) :: m, a => if a = b then some w else Memory.lookup m a

/-- List `v` at `a`, in its place by rising address. -/
def Memory.insert : Memory → Nat → Byte → Memory
  | [], a, v => [(a, v)]
  | (b, w) :: m, a, v =>
    if a < b then (a, v) :: (b, w) :: m
    else if a = b then (a, v) :: m
    else (b, w) :: Memory.insert m a v

/-- Unlist `a`. -/
def Memory.erase : Memory → Nat → Memory
  | [], _ => []
  | (b, w) :: m, a => if a = b then m else (b, w) :: Memory.erase m a

/-- `mem[a]`. -/
def Memory.read (c : Config) (m : Memory) (a : Nat) : Byte :=
  (Memory.lookup m a).getD (resetByte c a)

/-- `mem[a] <- v`.  "No write outside [0, 4095]" (20_memory.md R72): every caller checks its range first, and
an address beyond has no cell to write (log entry 5). -/
def Memory.write (c : Config) (m : Memory) (a : Nat) (v : Byte) : Memory :=
  if a < memSize then
    if v = resetByte c a then Memory.erase m a else Memory.insert m a v
  else m

/-- The canonical form from address `lo` on: addresses rise strictly and stay below 4096, and no cell holds
what its address reads as unlisted. -/
def Memory.wfFrom (c : Config) : Nat → Memory → Bool
  | _, [] => true
  | lo, (a, v) :: m =>
    decide (lo ≤ a) && decide (a < memSize) && v != resetByte c a && Memory.wfFrom c (a + 1) m

/-- The canonical form of a whole memory. -/
def Memory.wf (c : Config) (m : Memory) : Bool := Memory.wfFrom c 0 m

/-- `MemRead(a, 1)` (00_scope.md R19). -/
def State.readByte (s : State) (a : Nat) : Byte := Memory.read s.cfg s.mem a

/-- `MemWrite(a, 1, v)` (R19). -/
def State.writeByte (s : State) (a : Nat) (v : Byte) : State := s.setMem (Memory.write s.cfg s.mem a v)

/-- The `n` bytes from address `a` on, in ascending order. -/
def State.readBytes (s : State) (a : Nat) : Nat → List Byte
  | 0 => []
  | n + 1 => s.readByte a :: s.readBytes (a + 1) n

/-- Write bytes from address `a` on, in ascending order. -/
def State.writeBytes (s : State) (a : Nat) : List Byte → State
  | [] => s
  | b :: bs => State.writeBytes (s.writeByte a b) (a + 1) bs

/-- `V[r]` (R18). -/
def State.reg (s : State) (r : Reg) : Byte := s.v[r]

/-- `V[r] <- b` (R18).  No register is hard-wired (10_state.md R31). -/
def State.setReg (s : State) (r : Reg) (b : Byte) : State := s.setV (s.v.set r b)

/-- The result to `V[x]` first, the flag to `VF` second, so that the flag stays when `x` = 15
(00_scope.md R22). -/
def State.setRegFlag (s : State) (x : Reg) (result flag : Byte) : State :=
  (s.setReg x result).setReg vF flag

/-- Push a return address: `stack[sp] <- w`, then `sp <- sp + 1`; none when 16 entries are pushed
(41_flow.md R151). -/
def State.push? (s : State) (w : Word) : Option State :=
  if h : s.sp.val < 16 then
    some ((s.setStack (s.stack.set s.sp.val w)).setSp ⟨s.sp.val + 1, by omega⟩)
  else none

/-- Pop a return address: `sp <- sp - 1`, then read `stack[sp]`, which keeps its value; none when the stack is
empty (41_flow.md R152). -/
def State.pop? (s : State) : Option (Word × State) :=
  if h : 0 < s.sp.val then
    some (s.stack[s.sp.val - 1], s.setSp ⟨s.sp.val - 1, by omega⟩)
  else none

/-- `PC <- PC + 2` when the condition holds: a skip (41_flow.md R159). -/
def State.skipIf (s : State) (c : Bool) : State := if c then s.setPc (s.pc + 2) else s

/-- Record diagnostic `d` with its `diag_pc` and `diag_opcode` (00_scope.md R20; 40_cycle_dispatch.md R141).
It transfers no control and touches nothing else (60_exceptions.md R270). -/
def State.raise (s : State) (d : Diag) (pc opcode : Word) : State :=
  s.setDiag { valid := true, code := d, pc := pc, opcode := opcode }

/-- `raise d(pc = PC - 2, opcode = op)` from the execute phase of instruction `i`: `PC` is the post-fetch value
and `op` the word of `i` (60_exceptions.md R271; log entry 7). -/
def State.raiseAt (s : State) (d : Diag) (i : Instr) : State := s.raise d (s.pc - 2) (encode i)

/-- `halt`: the FSM goes to HALTED and nothing else changes (40_cycle_dispatch.md R139). -/
def State.halt (s : State) : State := s.setFsm .halted

/-- Halt when the parameters ask for it (60_exceptions.md R278, R279). -/
def State.haltIf (s : State) (c : Bool) : State := if c then s.halt else s

end Sys2Proof.Machine
end

