-- ==== Sys2Proof/Machine/Flags.lean ====
section
/-! DEFINITION. Every result and every flag the spec computes (42_alu.md R186 to R191, 44_display.md R231),
on unsigned integers, narrowed at the end.  A flag is 0 or 1 exactly (R191). -/

namespace Sys2Proof.Machine

/-- A condition as the byte that a flag write puts into `VF` (R191). -/
def flagByte (c : Bool) : Byte := if c then 1 else 0

/-- `(a + b) mod 256` (R186). -/
def sumByte (a b : Byte) : Byte := BitVec.ofNat 8 (a.toNat + b.toNat)

/-- Carry: the 9-bit sum exceeds 255 (R186). -/
def carryFlag (a b : Byte) : Byte := flagByte (decide (a.toNat + b.toNat > 255))

/-- `(a - b) mod 256` (R187). -/
def differenceByte (a b : Byte) : Byte := BitVec.ofInt 8 ((a.toNat : Int) - (b.toNat : Int))

/-- No borrow, by the source's formula: `a > b`, strictly (R187; 90_conflicts.md C5). -/
def noBorrowFlag (a b : Byte) : Byte := flagByte (decide (a.toNat > b.toNat))

/-- `s >> 1` (R188). -/
def shiftRightByte (s : Byte) : Byte := BitVec.ofNat 8 (s.toNat / 2)

/-- The bit SHR shifts out, `s[0]` (R188). -/
def lowBitFlag (s : Byte) : Byte := flagByte (s.getLsbD 0)

/-- `(s << 1) mod 256` (R190). -/
def shiftLeftByte (s : Byte) : Byte := BitVec.ofNat 8 (s.toNat * 2)

/-- The bit SHL shifts out, `s[7]` (R190). -/
def highBitFlag (s : Byte) : Byte := flagByte (s.getLsbD 7)

/-- Collision of DRW (44_display.md R231). -/
def collisionFlag (hit : Bool) : Byte := flagByte hit

/-- The decimal digits of a byte: hundreds, tens, ones (43_index_memory.md R213). -/
def bcdDigits (b : Byte) : List Byte :=
  [BitVec.ofNat 8 (b.toNat / 100), BitVec.ofNat 8 (b.toNat / 10 % 10), BitVec.ofNat 8 (b.toNat % 10)]

end Sys2Proof.Machine
end

