-- ==== Sys2Proof/Machine/Operands.lean ====
section
/-! DEFINITION. The operand forms of 30_encoding.md R103: zero-extended immediates, the shift source, the one
addressing mode `I` plus a small offset, the register range `V0..Vx`, the key index. -/

namespace Sys2Proof.Machine

/-- `zext_16(nnn)` (R103). -/
def addrOperand (nnn : BitVec 12) : Word := BitVec.ofNat 16 nnn.toNat

/-- `zext_16(V[x])`: a register as a 16-bit summand. -/
def wideOperand (b : Byte) : Word := BitVec.ofNat 16 b.toNat

/-- What SHR and SHL shift: `SHIFT_READS_VY ? V[y] : V[x]` (42_alu.md R188, R190; log entry 10). -/
def State.shiftSource (s : State) (x y : Reg) : Byte :=
  if s.cfg.shiftReadsVy then s.reg y else s.reg x

/-- Byte `i` of an access through `I` is at `I + i`, "computed on mathematical integers"
(43_index_memory.md R216). -/
def State.indexed (s : State) (i : Nat) : Nat := s.idx.toNat + i

/-- The bounds check before any byte is touched: all `n` bytes from `I` on lie in 0..4095
(20_memory.md R72). -/
def State.inBounds (s : State) (n : Nat) : Bool := decide (s.indexed n ≤ memSize)

/-- `V[0]` to `V[x]`, in ascending order (43_index_memory.md R214). -/
def State.regsUpTo (s : State) (x : Reg) : List Byte := s.v.toList.take (x.val + 1)

/-- `V[i] <- MemRead(I + i, 1)` for `i` in 0..x (43_index_memory.md R215). -/
def State.loadUpTo (s : State) (x : Reg) : State :=
  s.setV (Vector.ofFn fun i => if i ≤ x then s.readByte (s.indexed i.val) else s.reg i)

/-- A key index: `V[x]` when it names one of the 16 keys, none when it is above 15; "the index is not reduced
to its low nibble" (45_timers_keys.md R255). -/
def keyIndex? (b : Byte) : Option (Fin 16) := if h : b.toNat < 16 then some ⟨b.toNat, h⟩ else none

/-- `key[k] == 1` (10_state.md R42). -/
def State.keyDown (s : State) (k : Fin 16) : Bool := s.key.getLsbD k.val

/-- The lowest pressed key among the `fuel` keys from `k` on. -/
def State.lowestKeyFrom (s : State) (k : Nat) : Nat → Option Byte
  | 0 => none
  | fuel + 1 => if s.key.getLsbD k then some (BitVec.ofNat 8 k) else s.lowestKeyFrom (k + 1) fuel

/-- `lowest_key()`, none when no key is pressed (45_timers_keys.md R256). -/
def State.lowestKey? (s : State) : Option Byte := s.lowestKeyFrom 0 16

end Sys2Proof.Machine
end

