-- ==== Sys2Proof/Machine/Alu.lean ====
section
/-! DEFINITION. Register arithmetic, logic and random (42_alu.md).  Operands are read from the state before
any write; a result goes to `V[x]` first and a flag to `VF` second (00_scope.md R22). -/

namespace Sys2Proof.Machine

/-- R180. -/
def execLdByte (x : Reg) (kk : Byte) (s : State) : Result := .next (s.setReg x kk)

/-- R181: `VF` is not written as a carry. -/
def execAddByte (x : Reg) (kk : Byte) (s : State) : Result :=
  .next (s.setReg x (sumByte (s.reg x) kk))

/-- R182. -/
def execLdReg (x y : Reg) (s : State) : Result := .next (s.setReg x (s.reg y))

/-- R183: `VF` is not reset. -/
def execOr (x y : Reg) (s : State) : Result := .next (s.setReg x (s.reg x ||| s.reg y))

/-- R184. -/
def execAnd (x y : Reg) (s : State) : Result := .next (s.setReg x (s.reg x &&& s.reg y))

/-- R185. -/
def execXor (x y : Reg) (s : State) : Result := .next (s.setReg x (s.reg x ^^^ s.reg y))

/-- R186. -/
def execAddReg (x y : Reg) (s : State) : Result :=
  .next (s.setRegFlag x (sumByte (s.reg x) (s.reg y)) (carryFlag (s.reg x) (s.reg y)))

/-- R187. -/
def execSub (x y : Reg) (s : State) : Result :=
  .next (s.setRegFlag x (differenceByte (s.reg x) (s.reg y)) (noBorrowFlag (s.reg x) (s.reg y)))

/-- R188. -/
def execShr (x y : Reg) (s : State) : Result :=
  .next (s.setRegFlag x (shiftRightByte (s.shiftSource x y)) (lowBitFlag (s.shiftSource x y)))

/-- R189. -/
def execSubn (x y : Reg) (s : State) : Result :=
  .next (s.setRegFlag x (differenceByte (s.reg y) (s.reg x)) (noBorrowFlag (s.reg y) (s.reg x)))

/-- R190. -/
def execShl (x y : Reg) (s : State) : Result :=
  .next (s.setRegFlag x (shiftLeftByte (s.shiftSource x y)) (highBitFlag (s.shiftSource x y)))

/-- RND's effect for a given draw: `V[x] <- rnd & kk` (R192). -/
def State.masked (s : State) (x : Reg) (kk rnd : Byte) : State := s.setReg x (rnd &&& kk)

/-- R192: the draw is the free value of log entry 1, and "two executions consume two separate draws". -/
def execRnd (x : Reg) (kk : Byte) (s : State) : Result :=
  .next ((s.masked x kk (Config.rndDraw s.draws)).setDraws (s.draws + 1))

end Sys2Proof.Machine
end

