-- ==== Sys2Proof/Machine/Display.lean ====
section
/-! DEFINITION. The sprite compositor and the two instructions that write the framebuffer (44_display.md).
The compositor is R232's loop, bit by bit; that it equals the XOR with a mask (R234) is a statement. -/

namespace Sys2Proof.Machine

/-- `fb[y][x]` (10_state.md R41). -/
def Framebuffer.pixel (f : Framebuffer) (x : Fin 64) (y : Fin 32) : Bool := f[y].getLsbD x.val

/-- `fb[y][x] <- fb[y][x] XOR 1` (R232). -/
def Framebuffer.flip (f : Framebuffer) (x : Fin 64) (y : Fin 32) : Framebuffer :=
  f.set y (f[y] ^^^ BitVec.twoPow 64 x.val)

/-- Pixel (`x`, `y`) of the state. -/
def State.pixel (s : State) (x : Fin 64) (y : Fin 32) : Bool := Framebuffer.pixel s.fb x y

/-- `(cx + c) mod 64` (R232, R233). -/
def spriteColumn (cx : Byte) (c : Nat) : Fin 64 := Fin.ofNat 64 (cx.toNat + c)

/-- `(cy + r) mod 32` (R232, R233; the modulus is 90_conflicts.md C1's). -/
def spriteRow (cy : Byte) (r : Nat) : Fin 32 := Fin.ofNat 32 (cy.toNat + r)

/-- One sprite bit, with the framebuffer and the collision so far: a clear bit does nothing, a set bit
notes a collision and flips its pixel (R232).  Bit 7 of the byte is column 0. -/
def drawBit (cx cy : Byte) (r : Nat) (row : Byte) (acc : Framebuffer × Bool) (c : Nat) :
    Framebuffer × Bool :=
  if row.getLsbD (7 - c) then
    (Framebuffer.flip acc.1 (spriteColumn cx c) (spriteRow cy r),
     acc.2 || Framebuffer.pixel acc.1 (spriteColumn cx c) (spriteRow cy r))
  else acc

/-- One sprite byte: `c` in 0..7 (R232). -/
def drawRow (cx cy : Byte) (r : Nat) (row : Byte) (acc : Framebuffer × Bool) : Framebuffer × Bool :=
  (List.range 8).foldl (drawBit cx cy r row) acc

/-- The sprite bytes from row `r` on (R232). -/
def drawRows (cx cy : Byte) : Nat → List Byte → Framebuffer × Bool → Framebuffer × Bool
  | _, [], acc => acc
  | r, row :: rows, acc => drawRows cx cy (r + 1) rows (drawRow cx cy r row acc)

/-- `draw(cx, cy, h, rows)`: the new framebuffer and the collision (R232). -/
def draw (cx cy : Byte) (rows : List Byte) (f : Framebuffer) : Framebuffer × Bool :=
  drawRows cx cy 0 rows (f, false)

/-- R230. -/
def execCls (s : State) : Result := .next ((s.setFb (Vector.replicate 32 0)).setDrawFlag true)

/-- The effect of a draw on the state: the framebuffer, `VF`, the draw flag (R231). -/
def State.drawn (s : State) (d : Framebuffer × Bool) : State :=
  ((s.setFb d.1).setReg vF (collisionFlag d.2)).setDrawFlag true

/-- R231: a sprite beyond the end of memory is not read and not drawn, `VF` becomes 0, `draw_flag` stays. -/
def execDrw (x y : Reg) (n : BitVec 4) (s : State) : Result :=
  if s.inBounds n.toNat then
    .next (s.drawn (draw (s.reg x) (s.reg y) (s.readBytes (s.indexed 0) n.toNat) s.fb))
  else .next ((s.setReg vF 0).raiseAt .spriteOutOfBounds (.drw x y n))

end Sys2Proof.Machine
end

