-- ==== Sys2Proof/Machine/Flow.lean ====
section
/-! DEFINITION. Control flow and SYS (41_flow.md; 40_cycle_dispatch.md R137).  Every meaning is the execute
phase alone: it starts from the state after the fetch, so `pc` is the post-fetch `PC` (R132). -/

namespace Sys2Proof.Machine

/-- R137: `raise UnknownOpcode(pc = PC - 2, opcode = op)`, nothing else. -/
def execSys (nnn : BitVec 12) (s : State) : Result :=
  .next (s.raiseAt .unknownOpcode (.sys nnn))

/-- R150. -/
def execJp (nnn : BitVec 12) (s : State) : Result :=
  .next (s.setPc (addrOperand nnn))

/-- R151; a rejected call halts under `STACK_FAULT_FATAL` (60_exceptions.md R278). -/
def execCall (nnn : BitVec 12) (s : State) : Result :=
  match s.push? s.pc with
  | some t => .next (t.setPc (addrOperand nnn))
  | none => .next ((s.raiseAt .stackOverflow (.call nnn)).haltIf s.cfg.stackFaultFatal)

/-- R152; on an empty stack it halts under `TEST_MODE` or `STACK_FAULT_FATAL` (60_exceptions.md R278, R279). -/
def execRet (ign : BitVec 4) (s : State) : Result :=
  match s.pop? with
  | some (w, t) => .next (t.setPc w)
  | none =>
    .next ((s.raiseAt .stackUnderflow (.ret ign)).haltIf (s.cfg.testMode || s.cfg.stackFaultFatal))

/-- R157: the sum is not reduced to 12 bits. -/
def execJpV0 (nnn : BitVec 12) (s : State) : Result :=
  .next (s.setPc (addrOperand nnn + wideOperand (s.reg 0)))

/-- R153. -/
def execSeByte (x : Reg) (kk : Byte) (s : State) : Result :=
  .next (s.skipIf (s.reg x == kk))

/-- R154. -/
def execSneByte (x : Reg) (kk : Byte) (s : State) : Result :=
  .next (s.skipIf (s.reg x != kk))

/-- R155; bits 3..0 of the word are ignored. -/
def execSeReg (x y : Reg) (s : State) : Result :=
  .next (s.skipIf (s.reg x == s.reg y))

/-- R156; bits 3..0 of the word are ignored. -/
def execSneReg (x y : Reg) (s : State) : Result :=
  .next (s.skipIf (s.reg x != s.reg y))

end Sys2Proof.Machine
end

