-- ==== Sys2Proof/Machine/Index.lean ====
section
/-! DEFINITION. The index register and the memory transfers through it (43_index_memory.md).  An access whose
last byte lies beyond 4095 is rejected whole with `MemOutOfBounds` (R216). -/

namespace Sys2Proof.Machine

/-- R210. -/
def execLdI (nnn : BitVec 12) (s : State) : Result := .next (s.setIdx (addrOperand nnn))

/-- R211: modulo 65536, `VF` not written. -/
def execAddI (x : Reg) (s : State) : Result := .next (s.setIdx (s.idx + wideOperand (s.reg x)))

/-- R212: the whole 8-bit `V[x]`. -/
def execLdF (x : Reg) (s : State) : Result :=
  .next (s.setIdx (BitVec.ofNat 16 ((s.reg x).toNat * 5)))

/-- R213. -/
def execLdB (x : Reg) (s : State) : Result :=
  if s.inBounds 3 then .next (s.writeBytes (s.indexed 0) (bcdDigits (s.reg x)))
  else .next (s.raiseAt .memOutOfBounds (.ldB x))

/-- R214: `I` is not changed. -/
def execStoreRegs (x : Reg) (s : State) : Result :=
  if s.inBounds (x.val + 1) then .next (s.writeBytes (s.indexed 0) (s.regsUpTo x))
  else .next (s.raiseAt .memOutOfBounds (.storeRegs x))

/-- R215: `I` is not changed. -/
def execLoadRegs (x : Reg) (s : State) : Result :=
  if s.inBounds (x.val + 1) then .next (s.loadUpTo x)
  else .next (s.raiseAt .memOutOfBounds (.loadRegs x))

end Sys2Proof.Machine
end

