-- ==== Sys2Proof/Machine/TimersKeys.lean ====
section
/-! DEFINITION. The timer unit, the keypad and their instructions (45_timers_keys.md). -/

namespace Sys2Proof.Machine

/-- One 8-bit down-counter "floored at 0 (no wraparound)" (R258). -/
def countDown (b : Byte) : Byte := if b.toNat > 0 then BitVec.ofNat 8 (b.toNat - 1) else b

/-- `tick()` (R258). -/
def State.tick (s : State) : State := (s.setDt (countDown s.dt)).setSt (countDown s.st)

/-- R250; an index above 15 raises `KeyIndexOutOfRange` and does not skip (R255). -/
def execSkp (x : Reg) (s : State) : Result :=
  match keyIndex? (s.reg x) with
  | some k => .next (s.skipIf (s.keyDown k))
  | none => .next (s.raiseAt .keyIndexOutOfRange (.skp x))

/-- R251; an index above 15 raises `KeyIndexOutOfRange` and does not skip (R255). -/
def execSknp (x : Reg) (s : State) : Result :=
  match keyIndex? (s.reg x) with
  | some k => .next (s.skipIf (!s.keyDown k))
  | none => .next (s.raiseAt .keyIndexOutOfRange (.sknp x))

/-- R257: with no key pressed `PC` goes back to this instruction. -/
def execLdVxK (x : Reg) (s : State) : Result :=
  match s.lowestKey? with
  | some k => .next (s.setReg x k)
  | none => .next (s.setPc (s.pc - 2))

/-- R252: `DT` before this cycle's tick. -/
def execLdVxDt (x : Reg) (s : State) : Result := .next (s.setReg x s.dt)

/-- R253. -/
def execLdDtVx (x : Reg) (s : State) : Result := .next (s.setDt (s.reg x))

/-- R254. -/
def execLdStVx (x : Reg) (s : State) : Result := .next (s.setSt (s.reg x))

end Sys2Proof.Machine
end

