-- ==== Sys2Proof/Machine/Cycle.lean ====
section
/-! DEFINITION. One cycle, phase by phase (40_cycle_dispatch.md R131): start, fetch guard, FETCH, DECODE,
EXECUTE, TICK.  Step.lean calls `cycle`. -/

namespace Sys2Proof.Machine

/-- `diag_valid <- 0` at the start of a cycle in READY; the other three fields keep their values (R141). -/
def State.beginCycle (s : State) : State := s.setDiag { s.diag with valid := false }

/-- The fetch guard: "a cycle must not fetch when `PC >= 4095`" (R133). -/
def State.fetchBlocked (s : State) : Bool := decide (s.pc.toNat ≥ 4095)

/-- The word at `PC`: `mem[PC] ++ mem[PC+1]`, with no alignment check (R132). -/
def State.fetchWord (s : State) : Word :=
  wordOfBytes (s.readByte s.pc.toNat) (s.readByte (s.pc.toNat + 1))

/-- `PC <- PC + 2` (R132). -/
def State.advance (s : State) : State := s.setPc (s.pc + 2)

/-- The state in which the execute phase starts. -/
def State.fetched (s : State) : State := s.beginCycle.advance

/-- A guarded cycle: the diagnostic, the tick, and nothing else (R133). -/
def State.guardedCycle (s : State) : State :=
  (s.beginCycle.raise .fetchOutOfBounds s.pc 0x0000).tick

/-- A cycle whose word has no handler: the diagnostic and the tick (R136). -/
def State.unknownCycle (s : State) (op : Word) : State :=
  (s.fetched.raise .unknownOpcode (s.fetched.pc - 2) op).tick

/-- The end of a cycle that executed an instruction: no tick in a cycle that halts (R138, R139). -/
def State.endCycle (s : State) : State :=
  match s.fsm with
  | .ready => s.tick
  | .halted => s

/-- EXECUTE and TICK of an instruction, from the state after the fetch. -/
def runInstr (i : Instr) (s : State) : Result :=
  match exec i s with
  | .next t => .next t.endCycle
  | .fault r => .fault r
  | .refused r => .refused r

/-- A cycle in READY whose fetch is not blocked. -/
def State.openCycle (s : State) : Result :=
  match decodeWord s.fetchWord with
  | .error _ => .next (s.unknownCycle s.fetchWord)
  | .ok i => runInstr i s.fetched

/-- One activation of `step` (R131; in HALTED it changes nothing, R140). -/
def cycle (s : State) : Result :=
  match s.fsm with
  | .halted => .next s
  | .ready => if s.fetchBlocked then .next s.guardedCycle else s.openCycle

/-- Where a word is placed so that the next step fetches it: `PC`, or the entry point 0x200 when the fetch
guard holds `PC` (log entry 12). -/
def State.placement (s : State) : Word := if s.fetchBlocked then 0x200 else s.pc

/-- Put a word where the next step fetches it, high byte at the lower address (20_memory.md R73), in a core
that is READY. -/
def State.placeWord (s : State) (op : Word) : State :=
  ((s.setFsm .ready).setPc s.placement).writeBytes s.placement.toNat [highByte op, lowByte op]

end Sys2Proof.Machine
end

