-- ==== Sys2Proof/Machine/HostPort.lean ====
section
/-! DEFINITION. The host operations of 10_state.md R60: reset, load, step, write_keys, clear_draw_flag,
read_outputs, dump, restore, each performed between two cycles.  They are the only way the outside world
reaches the state (R66). -/

namespace Sys2Proof.Machine

/-- `diag_code`, 4 bits (60_exceptions.md R271); the codes 8 to 15 are never produced. -/
def diagCode : Diag → BitVec 4
  | .none => 0
  | .unknownOpcode => 1
  | .stackOverflow => 2
  | .stackUnderflow => 3
  | .spriteOutOfBounds => 4
  | .memOutOfBounds => 5
  | .keyIndexOutOfRange => 6
  | .fetchOutOfBounds => 7

/-- `fsm` as its output bit: 0 = READY, 1 = HALTED (10_state.md R45). -/
def haltedOutput : Fsm → Bool
  | .ready => false
  | .halted => true

/-- `tone_active = (ST ≠ 0)` (R64). -/
def State.toneActive (s : State) : Bool := s.st != 0

/-- The framebuffer as 2048 cells in row-major order, each 0x00 or 0x01 (R63): cell `y*64 + x`. -/
def State.framebufferCells (s : State) : List Byte :=
  s.fb.toList.flatMap fun row => (List.range 64).map fun x => if row.getLsbD x then 1 else 0

/-- What `read_outputs` returns (R63). -/
structure Outputs where
  cells : List Byte
  drawFlag : Bool
  toneActive : Bool
  halted : Bool
  diagValid : Bool
  diagCode : BitVec 4
  diagPc : Word
  diagOpcode : Word
  deriving DecidableEq, Repr

/-- `read_outputs()` changes no state (R63). -/
def State.readOutputs (s : State) : Outputs where
  cells := s.framebufferCells
  drawFlag := s.drawFlag
  toneActive := s.toneActive
  halted := haltedOutput s.fsm
  diagValid := s.diag.valid
  diagCode := Sys2Proof.Machine.diagCode s.diag.code
  diagPc := s.diag.pc
  diagOpcode := s.diag.opcode

/-- `write_keys(k)`: `key[i] <- k[i]` (R62). -/
def State.writeKeys (s : State) (k : BitVec 16) : State := s.setKey k

/-- `clear_draw_flag()` (R63). -/
def State.clearDrawFlag (s : State) : State := s.setDrawFlag false

/-- `reset()` with the parameters it takes (70_reset_and_hazards.md R300; log entry 17).  The count of random draws is the
model's own and goes on, so that draws after a reset are new ones (log entry 1). -/
def State.hostReset (s : State) (c : Config) : State := (State.resetWith c).setDraws s.draws

/-- What `load` returns to the host (R303). -/
inductive LoadResult where
  | ok
  | romTooLarge
  deriving DecidableEq, Repr

/-- The largest ROM, 4096 - 512 bytes (R305). -/
def romMax : Nat := 3584

/-- `load(rom)`: reset, then the length check, then `mem[0x200 + i] <- rom[i]` (R302, R305). -/
def State.load (s : State) (c : Config) (rom : List Byte) : State × LoadResult :=
  if rom.length ≤ romMax then ((s.hostReset c).writeBytes 0x200 rom, .ok)
  else (s.hostReset c, .romTooLarge)

/-- `dump()`: memory, `V`, `I` and `PC` little-endian, `DT`, `ST`; 4118 bytes (60_exceptions.md R290). -/
def State.dump (s : State) : List Byte :=
  s.readBytes 0 memSize ++ s.v.toList ++ [lowByte s.idx, highByte s.idx] ++ [lowByte s.pc, highByte s.pc]
    ++ [s.dt, s.st]

/-- What `restore` returns to the host (R291). -/
inductive RestoreResult where
  | ok
  | refused
  deriving DecidableEq, Repr

/-- Byte `i` of an image. -/
def imageByte (image : List Byte) (i : Nat) : Byte := image.getD i 0

/-- The dumped fields as the image gives them, everything else kept (R291). -/
def State.restored (s : State) (image : List Byte) : State :=
  (((((s.writeBytes 0 (image.take memSize)).setV
      (Vector.ofFn fun i : Fin 16 => imageByte image (4096 + i.val))).setIdx
      (wordOfBytes (imageByte image 4113) (imageByte image 4112))).setPc
      (wordOfBytes (imageByte image 4115) (imageByte image 4114))).setDt
      (imageByte image 4116)).setSt (imageByte image 4117)

/-- `restore(image)`: "an image of any other length is refused and changes nothing" (R291). -/
def State.restore (s : State) (image : List Byte) : State × RestoreResult :=
  if image.length = 4118 then (s.restored image, .ok) else (s, .refused)

/-- The host operations (10_state.md R60).  `step` takes its `rnd` from the model's free draws (log entry 1). -/
inductive HostOp where
  | reset (c : Config)
  | load (c : Config) (rom : List Byte)
  | step
  | writeKeys (k : BitVec 16)
  | clearDrawFlag
  | readOutputs
  | dump
  | restore (image : List Byte)
  deriving DecidableEq, Repr

/-- What the host gets back from an operation. -/
inductive HostReply where
  | done
  | loaded (r : LoadResult)
  | outputs (o : Outputs)
  | image (bytes : List Byte)
  | restored (r : RestoreResult)
  deriving DecidableEq, Repr

/-- `step` as a host operation; a step always answers a next state, and a stop would leave the state as it is. -/
def State.hostStep (s : State) : State :=
  match step s with
  | .next t => t
  | .fault _ => s
  | .refused _ => s

/-- One host operation: the state it leaves and what it returns (R60 to R66). -/
def State.perform (s : State) : HostOp → State × HostReply
  | .reset c => (s.hostReset c, .done)
  | .load c rom => ((s.load c rom).1, .loaded (s.load c rom).2)
  | .step => (s.hostStep, .done)
  | .writeKeys k => (s.writeKeys k, .done)
  | .clearDrawFlag => (s.clearDrawFlag, .done)
  | .readOutputs => (s, .outputs s.readOutputs)
  | .dump => (s, .image s.dump)
  | .restore image => ((s.restore image).1, .restored (s.restore image).2)

/-- A session: host operations one after the other (20_memory.md R80). -/
def State.performAll (s : State) : List HostOp → State
  | [] => s
  | op :: ops => (s.perform op).1.performAll ops

end Sys2Proof.Machine
end

