-- ==== Sys2Proof/Safety.lean ====
section
/-! DEFINITION. The terms in which claims are written: what a well-formed state is, what a part of the state
is and when two states agree on it, what an instruction may write, and where it stores. -/

namespace Sys2Proof.Machine

/-- The parts of the state, one for each entry of 10_state.md R30 and for the parameters and the draw count. -/
inductive Part where
  | cfg | mem | regs | idx | pc | stack | sp | dt | st | fb | key | drawFlag | fsm | diag | draws
  deriving DecidableEq, Repr

/-- `t` holds in part `p` what `s` holds, read through the model's reads: every byte of memory, every register,
every stack entry, every pixel, every key. -/
def State.agreeOn (s t : State) : Part → Prop
  | .cfg => t.cfg = s.cfg
  | .mem => ∀ a : Nat, t.readByte a = s.readByte a
  | .regs => ∀ r : Reg, t.reg r = s.reg r
  | .idx => t.idx = s.idx
  | .pc => t.pc = s.pc
  | .stack => ∀ j : Fin 16, t.stack[j] = s.stack[j]
  | .sp => t.sp = s.sp
  | .dt => t.dt = s.dt
  | .st => t.st = s.st
  | .fb => ∀ (x : Fin 64) (y : Fin 32), t.pixel x y = s.pixel x y
  | .key => ∀ k : Fin 16, t.keyDown k = s.keyDown k
  | .drawFlag => t.drawFlag = s.drawFlag
  | .fsm => t.fsm = s.fsm
  | .diag => t.diag = s.diag
  | .draws => t.draws = s.draws

/-- `t` differs from `s` at most in the parts `ps`. -/
def State.sameBut (s t : State) (ps : List Part) : Prop := ∀ p : Part, p ∉ ps → s.agreeOn t p

/-- The parts of the state an instruction's rule may write in its execute phase, over all its paths
(10_state.md R32 to R43; the diagnostics of 60_exceptions.md R271; the halts of R278, R279). -/
def mayWrite : Instr → List Part
  | .sys _ => [.diag]
  | .cls _ => [.fb, .drawFlag]
  | .ret _ => [.pc, .sp, .diag, .fsm]
  | .jp _ => [.pc]
  | .call _ => [.pc, .sp, .stack, .diag, .fsm]
  | .seByte _ _ => [.pc]
  | .sneByte _ _ => [.pc]
  | .seReg _ _ _ => [.pc]
  | .ldByte _ _ => [.regs]
  | .addByte _ _ => [.regs]
  | .ldReg _ _ => [.regs]
  | .orReg _ _ => [.regs]
  | .andReg _ _ => [.regs]
  | .xorReg _ _ => [.regs]
  | .addReg _ _ => [.regs]
  | .sub _ _ => [.regs]
  | .shr _ _ => [.regs]
  | .subn _ _ => [.regs]
  | .shl _ _ => [.regs]
  | .sneReg _ _ _ => [.pc]
  | .ldI _ => [.idx]
  | .jpV0 _ => [.pc]
  | .rnd _ _ => [.regs, .draws]
  | .drw _ _ _ => [.fb, .regs, .drawFlag, .diag]
  | .skp _ => [.pc, .diag]
  | .sknp _ => [.pc, .diag]
  | .ldVxDt _ => [.regs]
  | .ldVxK _ => [.regs, .pc]
  | .ldDtVx _ => [.dt]
  | .ldStVx _ => [.st]
  | .addI _ => [.idx]
  | .ldF _ => [.idx]
  | .ldB _ => [.mem, .diag]
  | .storeRegs _ => [.mem, .diag]
  | .loadRegs _ => [.regs, .diag]

/-- The general registers an instruction's rule names as written: its destination, and `VF` where it is a flag
output (10_state.md R32, R34). -/
def mayWriteReg (r : Reg) : Instr → Bool
  | .sys _ => false
  | .cls _ => false
  | .ret _ => false
  | .jp _ => false
  | .call _ => false
  | .seByte _ _ => false
  | .sneByte _ _ => false
  | .seReg _ _ _ => false
  | .ldByte x _ => r == x
  | .addByte x _ => r == x
  | .ldReg x _ => r == x
  | .orReg x _ => r == x
  | .andReg x _ => r == x
  | .xorReg x _ => r == x
  | .addReg x _ => r == x || r == vF
  | .sub x _ => r == x || r == vF
  | .shr x _ => r == x || r == vF
  | .subn x _ => r == x || r == vF
  | .shl x _ => r == x || r == vF
  | .sneReg _ _ _ => false
  | .ldI _ => false
  | .jpV0 _ => false
  | .rnd x _ => r == x
  | .drw _ _ _ => r == vF
  | .skp _ => false
  | .sknp _ => false
  | .ldVxDt x => r == x
  | .ldVxK x => r == x
  | .ldDtVx _ => false
  | .ldStVx _ => false
  | .addI _ => false
  | .ldF _ => false
  | .ldB _ => false
  | .storeRegs _ => false
  | .loadRegs x => decide (r ≤ x)

/-- How many bytes an instruction stores from `indexed 0`, its own address expression, on; 0 for every
instruction that stores nothing (20_memory.md R71, R75). -/
def storeLength : Instr → Nat
  | .sys _ => 0
  | .cls _ => 0
  | .ret _ => 0
  | .jp _ => 0
  | .call _ => 0
  | .seByte _ _ => 0
  | .sneByte _ _ => 0
  | .seReg _ _ _ => 0
  | .ldByte _ _ => 0
  | .addByte _ _ => 0
  | .ldReg _ _ => 0
  | .orReg _ _ => 0
  | .andReg _ _ => 0
  | .xorReg _ _ => 0
  | .addReg _ _ => 0
  | .sub _ _ => 0
  | .shr _ _ => 0
  | .subn _ _ => 0
  | .shl _ _ => 0
  | .sneReg _ _ _ => 0
  | .ldI _ => 0
  | .jpV0 _ => 0
  | .rnd _ _ => 0
  | .drw _ _ _ => 0
  | .skp _ => 0
  | .sknp _ => 0
  | .ldVxDt _ => 0
  | .ldVxK _ => 0
  | .ldDtVx _ => 0
  | .ldStVx _ => 0
  | .addI _ => 0
  | .ldF _ => 0
  | .ldB _ => 3
  | .storeRegs x => x.val + 1
  | .loadRegs _ => 0

/-- Pixel (`x`, `y`) lies under a set bit of the sprite whose row `r` is `row r`, for `r` below `h`: the sprite mask
of 44_display.md R234, placed with wrap-around at the whole 8-bit coordinates `cx`, `cy`. -/
def spriteMask (cx cy : Byte) (h : Nat) (row : Nat → Byte) (x : Fin 64) (y : Fin 32) : Prop :=
  ∃ r c : Nat, r < h ∧ c < 8 ∧ (row r).getLsbD (7 - c) = true ∧
    x.val = (cx.toNat + c) % 64 ∧ y.val = (cy.toNat + r) % 32

/-- The mask of the sprite that `DRW Vx, Vy, n` takes from `mem[I .. I+n)` (R231). -/
def State.drwMask (s : State) (x y : Reg) (n : BitVec 4) (px : Fin 64) (py : Fin 32) : Prop :=
  spriteMask (s.reg x) (s.reg y) n.toNat (fun r => s.readByte (s.idx.toNat + r)) px py

/-- The cause column of the table of 60_exceptions.md R271: when a cycle in READY raises diagnostic `d`. -/
def State.raises (s : State) : Diag → Prop
  | .none => False
  | .unknownOpcode =>
    s.pc.toNat < 4095 ∧
      ((∃ r, decodeWord s.fetchWord = .error r) ∨ ∃ nnn, decodeWord s.fetchWord = .ok (.sys nnn))
  | .stackOverflow =>
    s.pc.toNat < 4095 ∧ (∃ nnn, decodeWord s.fetchWord = .ok (.call nnn)) ∧ s.sp.val = 16
  | .stackUnderflow =>
    s.pc.toNat < 4095 ∧ (∃ ign, decodeWord s.fetchWord = .ok (.ret ign)) ∧ s.sp.val = 0
  | .spriteOutOfBounds =>
    s.pc.toNat < 4095 ∧
      ∃ x y n, decodeWord s.fetchWord = .ok (.drw x y n) ∧ s.idx.toNat + n.toNat > 4096
  | .memOutOfBounds =>
    s.pc.toNat < 4095 ∧
      ((∃ x, decodeWord s.fetchWord = .ok (.ldB x) ∧ s.idx.toNat + 2 > 4095) ∨
       (∃ x, decodeWord s.fetchWord = .ok (.storeRegs x) ∧ s.idx.toNat + x.val > 4095) ∨
       ∃ x, decodeWord s.fetchWord = .ok (.loadRegs x) ∧ s.idx.toNat + x.val > 4095)
  | .keyIndexOutOfRange =>
    s.pc.toNat < 4095 ∧
      ∃ x, (decodeWord s.fetchWord = .ok (.skp x) ∨ decodeWord s.fetchWord = .ok (.sknp x)) ∧
        (s.reg x).toNat > 15
  | .fetchOutOfBounds => s.pc.toNat ≥ 4095

/-- Why a core may be HALTED: the last cycle raised the stack diagnostic that the parameters make fatal
(40_cycle_dispatch.md R139). -/
def State.haltExplained (s : State) : Prop :=
  s.diag.valid = true ∧
    ((s.diag.code = .stackOverflow ∧ s.cfg.stackFaultFatal = true) ∨
     (s.diag.code = .stackUnderflow ∧ (s.cfg.testMode = true ∨ s.cfg.stackFaultFatal = true)))

/-- What holds of the core whatever the host does: memory is in its canonical form, a valid record names a
diagnostic, and a HALTED core has its cause. -/
structure State.Sound (s : State) : Prop where
  memory : Memory.wf s.cfg s.mem = true
  record : s.diag.valid = true → s.diag.code ≠ .none
  halt : s.fsm = .halted → s.haltExplained

/-- What every cycle keeps besides: no `PC` beyond 0x10FE (10_state.md R37), and every pushed return address is
one the fetch can have left, at most 0x1000. -/
structure State.Bounded (s : State) : Prop where
  pc : s.pc.toNat ≤ 0x10FE
  stack : ∀ j : Fin 16, j.val < s.sp.val → s.stack[j].toNat ≤ 0x1000

/-- Two states differ at most in what only the host can see: the draw flag and the diagnostic record
(10_state.md R45, R46). -/
def State.sameButHostView (s t : State) : Prop :=
  t = (s.setDrawFlag t.drawFlag).setDiag t.diag

/-- Two states differ at most in stack entries that are not pushed (10_state.md R39). -/
def State.sameButStaleStack (s t : State) : Prop :=
  t = s.setStack t.stack ∧ ∀ j : Fin 16, j.val < s.sp.val → t.stack[j] = s.stack[j]

end Sys2Proof.Machine
end

