-- ==== Sys2Proof/Certificates/Slice0/Obligations.lean ====
section
/-! DEFINITION. The statements for the provers.  Those about `exec` are about the execute phase: `s` is the state
after the fetch, so `s.pc` is the post-fetch `PC` and the instruction's own address is `s.pc - 2`
(40_cycle_dispatch.md R132). -/

open Sys2Proof Sys2Proof.Machine

/-- The decode table checks of 95_test_vectors.md section 2.1 and the two words the source itself shows. -/
def Obligations.WordsOfTheSpecDecodeToTheirInstructions : Prop :=
  decodeWord 0x6042 = .ok (.ldByte 0x0 0x42) ∧ decodeWord 0x8014 = .ok (.addReg 0x0 0x1) ∧
  decodeWord 0x00E0 = .ok (.cls 0) ∧ decodeWord 0x00EE = .ok (.ret 0) ∧
  decodeWord 0x0FEE = .ok (.ret 0xF) ∧ decodeWord 0x0000 = .ok (.sys 0x000) ∧
  decodeWord 0x5121 = .ok (.seReg 0x1 0x2 0x1) ∧ decodeWord 0x912F = .ok (.sneReg 0x1 0x2 0xF) ∧
  decodeWord 0x800E = .ok (.shl 0x0 0x0) ∧ decodeWord 0xE19E = .ok (.skp 0x1) ∧
  decodeWord 0xE1A1 = .ok (.sknp 0x1) ∧ decodeWord 0xE1AE = .error (.noRowInGroupE 0xAE) ∧
  decodeWord 0xF007 = .ok (.ldVxDt 0x0) ∧ decodeWord 0xF00B = .error (.noRowInGroupF 0x0B) ∧
  decodeWord 0xF065 = .ok (.loadRegs 0x0) ∧ decodeWord 0xF075 = .error (.noRowInGroupF 0x75)

/-- Decoding the bytes of a well-formed instruction, whatever follows them, gives the instruction back. -/
def Obligations.DecodeAfterEncodeGivesTheInstructionBack : Prop :=
  ∀ (i : Instr) (rest : List Byte), i.wf = true → decode (encodeBytes i ++ rest) = .ok (i, rest)

/-- A word that decodes is the word of what it decodes to, which is well-formed: no bit of a word is lost. -/
def Obligations.EncodeAfterDecodeGivesTheWordBack : Prop :=
  ∀ (op : Word) (i : Instr), decodeWord op = .ok i → encode i = op ∧ i.wf = true

/-- The unknown space of 30_encoding.md R112, group by group. -/
def Obligations.UnknownWordsAreExactlyTheUnresolvedSubKeys : Prop :=
  ∀ op : Word, (∃ r, decodeWord op = .error r) ↔
    (op.toNat / 0x1000 = 0x8 ∧ op.toNat % 0x10 ∈ [0x8, 0x9, 0xA, 0xB, 0xC, 0xD, 0xF]) ∨
    (op.toNat / 0x1000 = 0xE ∧ op.toNat % 0x100 ∉ [0x9E, 0xA1]) ∨
    (op.toNat / 0x1000 = 0xF ∧
      op.toNat % 0x100 ∉ [0x07, 0x0A, 0x15, 0x18, 0x1E, 0x29, 0x33, 0x55, 0x65])

/-- 30_encoding.md R111: at most one of rows 2 to 35 matches a word; row 1, SYS, is taken exactly when the group is
0x0 and neither CLS nor RET matches; and what a word decodes to otherwise is an instruction whose row
matches it. -/
def Obligations.OpcodeMapRowsAreUniqueAndDecodeFollowsThem : Prop :=
  (∀ op : Word, (opcodeRows.filter fun r => r.covers op).length ≤ 1) ∧
  (∀ op : Word, (∃ nnn, decodeWord op = .ok (.sys nnn)) ↔
    op.toNat / 0x1000 = 0 ∧ op &&& 0xF0FF ≠ 0x00E0 ∧ op &&& 0xF0FF ≠ 0x00EE) ∧
  (∀ (op : Word) (i : Instr), decodeWord op = .ok i → (∀ nnn, i ≠ .sys nnn) →
    rowOf i ∈ opcodeRows ∧ (rowOf i).covers op = true)

/-- 40_cycle_dispatch.md R131: a READY core below the fetch guard whose two bytes at `PC` decode runs exactly that
instruction, from the state with the diagnostic no longer valid and `PC` advanced by 2, and then ticks both
timers unless the instruction halted. -/
def Obligations.StepRunsTheDecodedInstruction : Prop :=
  ∀ (s : State) (i : Instr), s.fsm = .ready → s.pc.toNat < 4095 →
    decode [s.readByte s.pc.toNat, s.readByte (s.pc.toNat + 1)] = .ok (i, []) →
    step s =
      match exec i ((s.setDiag { s.diag with valid := false }).setPc (s.pc + 2)) with
      | .next t =>
        .next (if t.fsm = .ready then (t.setDt (countDown t.dt)).setSt (countDown t.st) else t)
      | .fault r => .fault r
      | .refused r => .refused r

/-- A table word placed where the next step fetches is what the next step runs, from any state whose memory is in
canonical form. -/
def Obligations.APlacedWordIsRunByTheNextStep : Prop :=
  ∀ (s : State) (w : Nat) (i : Instr), Memory.wf s.cfg s.mem = true → decodeTableWord 16 w = some i →
    step (s.withFetchWord 16 w) = runInstr i (s.withFetchWord 16 w).fetched

/-- 40_cycle_dispatch.md R136: a word without a handler is recorded with its own address, changes no register, memory,
framebuffer, stack or flag, and the core goes on behind it, whatever the parameters are. -/
def Obligations.AnUnknownWordIsRecordedAndPassedOver : Prop :=
  ∀ (s : State) (r : DecodeReject), s.fsm = .ready → s.pc.toNat < 4095 →
    decodeWord s.fetchWord = .error r →
    ∃ t, step s = .next t ∧ t.pc.toNat = s.pc.toNat + 2 ∧
      t.diag = { valid := true, code := .unknownOpcode, pc := s.pc, opcode := s.fetchWord } ∧
      t.dt.toNat = s.dt.toNat - 1 ∧ t.st.toNat = s.st.toNat - 1 ∧
      s.sameBut t [.pc, .diag, .dt, .st]

/-- 40_cycle_dispatch.md R133: a READY core with `PC` at 4095 or beyond stays there, however many steps it is given, with
only the timers and the record moving. -/
def Obligations.TheFetchGuardHoldsTheCore : Prop :=
  ∀ (k : Nat) (s : State), s.fsm = .ready → s.pc.toNat ≥ 4095 →
    ∃ t, Sys2Proof.core.run (k + 1) s = .next t ∧
      t.diag = { valid := true, code := .fetchOutOfBounds, pc := s.pc, opcode := 0x0000 } ∧
      t.dt.toNat = s.dt.toNat - (k + 1) ∧ t.st.toNat = s.st.toNat - (k + 1) ∧
      s.sameBut t [.diag, .dt, .st]

/-- The last sentence of 40_cycle_dispatch.md R133, an inference of the spec's own: `PC` = 4094 is fetched normally (bytes 4094 and
4095), a word that leaves `PC` post-fetch leaves 4096, and the next cycle is guarded. -/
def Obligations.TheLastWordOfMemoryIsFetchedAndThenTheGuardHolds : Prop :=
  ∀ (s : State) (x : Reg) (kk : Byte), s.fsm = .ready → s.pc.toNat = 4094 →
    decodeWord (wordOfBytes (s.readByte 4094) (s.readByte 4095)) = .ok (.ldByte x kk) →
    ∃ t u, step s = .next t ∧ t.pc.toNat = 4096 ∧ t.reg x = kk ∧ t.diag.valid = false ∧
      step t = .next u ∧ u.pc.toNat = 4096 ∧ u.reg x = kk ∧
      u.diag = { valid := true, code := .fetchOutOfBounds, pc := 0x1000, opcode := 0x0000 }

/-- 40_cycle_dispatch.md R140 and R130: a step in HALTED changes nothing at all, and only `reset` and `load` leave
HALTED. -/
def Obligations.AHaltedCoreKeepsItsStateUntilReset : Prop :=
  (∀ s : State, s.fsm = .halted → step s = .next s) ∧
  (∀ (s : State) (op : HostOp), s.fsm = .halted →
    ((s.perform op).1.fsm = .ready ↔ (∃ c, op = .reset c) ∨ ∃ c rom, op = .load c rom))

/-- No state stops the core and no instruction is refused: every step, and every execute phase, answers a next state
(60_exceptions.md R270: every per-cycle anomaly is recovered locally). -/
def Obligations.EveryStepAnswersANextState : Prop :=
  (∀ s : State, ∃ t, step s = .next t) ∧ (∀ (i : Instr) (s : State), ∃ t, exec i s = .next t)

/-- 45_timers_keys.md R258 and 40_cycle_dispatch.md R138: every cycle that does not halt ends in exactly one tick, so a timer
goes down by 1 and stays at 0, and the value an LD DT or LD ST wrote is already ticked; a cycle that halts
leaves both timers. -/
def Obligations.TimersTickExactlyOncePerCycle : Prop :=
  ∀ s t : State, s.fsm = .ready → step s = .next t →
    (t.fsm = .halted → t.dt = s.dt ∧ t.st = s.st) ∧
    (t.fsm = .ready →
      (s.pc.toNat ≥ 4095 ∨ (∀ x, decodeWord s.fetchWord ≠ .ok (.ldDtVx x)) →
        t.dt.toNat = s.dt.toNat - 1) ∧
      (s.pc.toNat ≥ 4095 ∨ (∀ x, decodeWord s.fetchWord ≠ .ok (.ldStVx x)) →
        t.st.toNat = s.st.toNat - 1) ∧
      (s.pc.toNat < 4095 → ∀ x, decodeWord s.fetchWord = .ok (.ldDtVx x) →
        t.dt.toNat = (s.reg x).toNat - 1) ∧
      (s.pc.toNat < 4095 → ∀ x, decodeWord s.fetchWord = .ok (.ldStVx x) →
        t.st.toNat = (s.reg x).toNat - 1))

/-- 60_exceptions.md R271, its cause column, and R276: a cycle in READY leaves a valid record of diagnostic `d` exactly when the
table's cause of `d` holds at its start. -/
def Obligations.EachDiagnosticIsRaisedExactlyByItsCause : Prop :=
  ∀ (s t : State) (d : Diag), s.fsm = .ready → step s = .next t → d ≠ .none →
    ((t.diag.valid = true ∧ t.diag.code = d) ↔ s.raises d)

/-- 40_cycle_dispatch.md R141 and the address and word columns of 60_exceptions.md R271: a record raised in a cycle names a diagnostic, the
address the cycle began at and the word fetched there (0x0000 where nothing was fetched); after a cycle that
raised none the other three fields keep their values. -/
def Obligations.TheDiagnosticRecordNamesTheInstruction : Prop :=
  ∀ s t : State, s.fsm = .ready → step s = .next t →
    (t.diag.valid = true → t.diag.code ≠ .none ∧ t.diag.pc = s.pc ∧
      t.diag.opcode = if s.pc.toNat ≥ 4095 then 0x0000 else s.fetchWord) ∧
    (t.diag.valid = false →
      t.diag.code = s.diag.code ∧ t.diag.pc = s.diag.pc ∧ t.diag.opcode = s.diag.opcode)

/-- 40_cycle_dispatch.md R139, 60_exceptions.md R278 and R279: a cycle halts exactly in a CALL on a full stack under `STACK_FAULT_FATAL` and
a RET on an empty stack under `TEST_MODE` or `STACK_FAULT_FATAL`; a halting cycle leaves `PC` post-fetch, the
diagnostic, and nothing else changed: no tick. -/
def Obligations.OnlyFatalStackFaultsHalt : Prop :=
  ∀ s t : State, s.fsm = .ready → step s = .next t →
    (t.fsm = .halted ↔ s.pc.toNat < 4095 ∧
      (((∃ nnn, decodeWord s.fetchWord = .ok (.call nnn)) ∧ s.sp.val = 16 ∧
          s.cfg.stackFaultFatal = true) ∨
       ((∃ ign, decodeWord s.fetchWord = .ok (.ret ign)) ∧ s.sp.val = 0 ∧
          (s.cfg.testMode = true ∨ s.cfg.stackFaultFatal = true)))) ∧
    (t.fsm = .halted → t.pc.toNat = s.pc.toNat + 2 ∧ s.sameBut t [.pc, .diag, .fsm])

/-- The invariant every step keeps, from every state that meets it: memory in canonical form, a valid record naming a
diagnostic, a halted core having its cause; and with it 10_state.md R37's bound on `PC`, which needs every pushed return address
to be one that the fetch leaves. -/
def Obligations.EveryStepKeepsTheCoreSound : Prop :=
  ∀ s t : State, s.Sound → step s = .next t → t.Sound ∧ (s.Bounded → t.Bounded)

/-- The reset state meets the invariant, whatever the parameters. -/
def Obligations.TheResetStateIsSoundAndBounded : Prop :=
  ∀ c : Config, (State.resetWith c).Sound ∧ (State.resetWith c).Bounded

/-- Whatever the host does, in any order, from power-on on, the core is sound: resets, loads, steps, key changes, restored
images with any bytes. -/
def Obligations.EveryHostSessionKeepsTheCoreSound : Prop :=
  ∀ (c : Config) (ops : List HostOp), ((State.resetWith c).performAll ops).Sound

/-- The step from which EveryHostSessionKeepsTheCoreSound follows, from every sound state and not only from those a
session reaches: each host operation of 10_state.md R60, a step among them, leads to a sound state. -/
def Obligations.EveryHostOperationKeepsTheCoreSound : Prop :=
  ∀ (s : State) (op : HostOp), s.Sound → (s.perform op).1.Sound

/-- 20_memory.md R82: two bytes that an LD [I],Vx stores over the next instruction are what the very next cycle fetches. -/
def Obligations.StoredBytesAreFetchedByTheNextCycle : Prop :=
  ∀ (s t : State) (x j j' : Reg), Memory.wf s.cfg s.mem = true → s.fsm = .ready → s.pc.toNat < 4093 →
    decodeWord s.fetchWord = .ok (.storeRegs x) → s.idx.toNat + x.val ≤ 4095 → j' ≤ x →
    j.val + 1 = j'.val → s.idx.toNat + j.val = s.pc.toNat + 2 → step s = .next t →
    t.fetchWord = wordOfBytes (s.reg j) (s.reg j')

/-- 41_flow.md R150 and R157. -/
def Obligations.JumpsSetThePc : Prop :=
  ∀ (nnn : BitVec 12) (s : State),
    decodeWord (BitVec.ofNat 16 (0x1000 + nnn.toNat)) = .ok (.jp nnn) ∧
    decodeWord (BitVec.ofNat 16 (0xB000 + nnn.toNat)) = .ok (.jpV0 nnn) ∧
    (∃ t, exec (.jp nnn) s = .next t ∧ t.pc.toNat = nnn.toNat ∧ s.sameBut t [.pc]) ∧
    (∃ t, exec (.jpV0 nnn) s = .next t ∧ t.pc.toNat = nnn.toNat + (s.reg 0).toNat ∧ s.sameBut t [.pc])

/-- 41_flow.md R151, with C2 of 90_conflicts.md: a call pushes the post-fetch `PC` and jumps; with 16 entries pushed there is no push and
no jump, and the core halts only under `STACK_FAULT_FATAL`. -/
def Obligations.CallPushesTheReturnAddressOrIsDropped : Prop :=
  ∀ (nnn : BitVec 12) (s : State),
    decodeWord (BitVec.ofNat 16 (0x2000 + nnn.toNat)) = .ok (.call nnn) ∧
    (s.sp.val < 16 → ∃ t, exec (.call nnn) s = .next t ∧ t.sp.val = s.sp.val + 1 ∧
      t.pc.toNat = nnn.toNat ∧
      (∀ j : Fin 16, t.stack[j] = if j.val = s.sp.val then s.pc else s.stack[j]) ∧
      s.sameBut t [.pc, .sp, .stack]) ∧
    (s.sp.val = 16 → ∃ t, exec (.call nnn) s = .next t ∧
      t.diag = { valid := true, code := .stackOverflow, pc := s.pc - 2,
                 opcode := BitVec.ofNat 16 (0x2000 + nnn.toNat) } ∧
      t.fsm = (if s.cfg.stackFaultFatal then .halted else s.fsm) ∧ s.sameBut t [.diag, .fsm])

/-- 41_flow.md R152: RET pops into `PC` and leaves the entry; on an empty stack it only raises, and halts under `TEST_MODE` or
`STACK_FAULT_FATAL`.  Bits 11..8 of the word are ignored. -/
def Obligations.RetPopsOrUnderflows : Prop :=
  ∀ (ign : BitVec 4) (s : State),
    decodeWord (BitVec.ofNat 16 (ign.toNat * 0x100 + 0xEE)) = .ok (.ret ign) ∧
    (∀ j : Fin 16, s.sp.val = j.val + 1 → ∃ t, exec (.ret ign) s = .next t ∧ t.sp.val = j.val ∧
      t.pc = s.stack[j] ∧ s.sameBut t [.pc, .sp]) ∧
    (s.sp.val = 0 → ∃ t, exec (.ret ign) s = .next t ∧
      t.diag = { valid := true, code := .stackUnderflow, pc := s.pc - 2,
                 opcode := BitVec.ofNat 16 (ign.toNat * 0x100 + 0xEE) } ∧
      t.fsm = (if s.cfg.testMode = true ∨ s.cfg.stackFaultFatal = true then .halted else s.fsm) ∧
      s.sameBut t [.diag, .fsm])

/-- 41_flow.md R160, over every instruction: `sp` changes only by one and only in CALL and RET, an entry changes only where a
CALL pushes, a rejected CALL changes neither; and a RET reached with the stack as a CALL left it returns to the
instruction after the CALL. -/
def Obligations.OnlyCallAndRetMoveTheStack : Prop :=
  (∀ (i : Instr) (s t : State), exec i s = .next t →
    (t.sp = s.sp ∨ ((∃ nnn, i = .call nnn) ∧ t.sp.val = s.sp.val + 1) ∨
      ((∃ ign, i = .ret ign) ∧ t.sp.val + 1 = s.sp.val)) ∧
    (∀ j : Fin 16, t.stack[j] ≠ s.stack[j] → (∃ nnn, i = .call nnn) ∧ j.val = s.sp.val)) ∧
  (∀ (nnn : BitVec 12) (s t : State), s.sp.val = 16 → exec (.call nnn) s = .next t →
    t.sp = s.sp ∧ t.stack = s.stack) ∧
  (∀ (nnn : BitVec 12) (ign : BitVec 4) (s t u : State), s.sp.val < 16 →
    exec (.call nnn) s = .next t → u.sp = t.sp → u.stack = t.stack →
    ∃ w, exec (.ret ign) u = .next w ∧ w.pc = s.pc ∧ w.sp = s.sp)

/-- 41_flow.md R153 to R156: the four register skips, for every value of the ignored bits of the register forms. -/
def Obligations.ConditionalSkipsAdvanceThePc : Prop :=
  ∀ (x y : Reg) (kk : Byte) (n : BitVec 4) (s : State),
    decodeWord (BitVec.ofNat 16 (0x3000 + x.val * 0x100 + kk.toNat)) = .ok (.seByte x kk) ∧
    decodeWord (BitVec.ofNat 16 (0x4000 + x.val * 0x100 + kk.toNat)) = .ok (.sneByte x kk) ∧
    decodeWord (BitVec.ofNat 16 (0x5000 + x.val * 0x100 + y.val * 0x10 + n.toNat)) =
      .ok (.seReg x y n) ∧
    decodeWord (BitVec.ofNat 16 (0x9000 + x.val * 0x100 + y.val * 0x10 + n.toNat)) =
      .ok (.sneReg x y n) ∧
    (∃ t, exec (.seByte x kk) s = .next t ∧ t.pc = (if s.reg x = kk then s.pc + 2 else s.pc) ∧
      s.sameBut t [.pc]) ∧
    (∃ t, exec (.sneByte x kk) s = .next t ∧ t.pc = (if s.reg x ≠ kk then s.pc + 2 else s.pc) ∧
      s.sameBut t [.pc]) ∧
    (∃ t, exec (.seReg x y n) s = .next t ∧
      t.pc = (if s.reg x = s.reg y then s.pc + 2 else s.pc) ∧ s.sameBut t [.pc]) ∧
    (∃ t, exec (.sneReg x y n) s = .next t ∧
      t.pc = (if s.reg x ≠ s.reg y then s.pc + 2 else s.pc) ∧ s.sameBut t [.pc])

/-- 42_alu.md R180 and R181: `VF` changes only as the destination. -/
def Obligations.ImmediateLoadAndAddWriteOnlyTheirRegister : Prop :=
  ∀ (x : Reg) (kk : Byte) (s : State),
    decodeWord (BitVec.ofNat 16 (0x6000 + x.val * 0x100 + kk.toNat)) = .ok (.ldByte x kk) ∧
    decodeWord (BitVec.ofNat 16 (0x7000 + x.val * 0x100 + kk.toNat)) = .ok (.addByte x kk) ∧
    (∃ t, exec (.ldByte x kk) s = .next t ∧ (∀ r, t.reg r = if r = x then kk else s.reg r) ∧
      s.sameBut t [.regs]) ∧
    (∃ t, exec (.addByte x kk) s = .next t ∧
      (∀ r, (t.reg r).toNat =
        if r = x then ((s.reg x).toNat + kk.toNat) % 256 else (s.reg r).toNat) ∧
      s.sameBut t [.regs])

/-- 42_alu.md R182 to R185: the copy and the three bitwise operations, with no effect on `VF` but as the destination. -/
def Obligations.CopyAndBitwiseOperationsWriteOnlyTheirRegister : Prop :=
  ∀ (x y : Reg) (s : State),
    decodeWord (BitVec.ofNat 16 (0x8000 + x.val * 0x100 + y.val * 0x10)) = .ok (.ldReg x y) ∧
    decodeWord (BitVec.ofNat 16 (0x8001 + x.val * 0x100 + y.val * 0x10)) = .ok (.orReg x y) ∧
    decodeWord (BitVec.ofNat 16 (0x8002 + x.val * 0x100 + y.val * 0x10)) = .ok (.andReg x y) ∧
    decodeWord (BitVec.ofNat 16 (0x8003 + x.val * 0x100 + y.val * 0x10)) = .ok (.xorReg x y) ∧
    (∃ t, exec (.ldReg x y) s = .next t ∧ (∀ r, t.reg r = if r = x then s.reg y else s.reg r) ∧
      s.sameBut t [.regs]) ∧
    (∃ t, exec (.orReg x y) s = .next t ∧
      (∀ r, t.reg r = if r = x then s.reg x ||| s.reg y else s.reg r) ∧ s.sameBut t [.regs]) ∧
    (∃ t, exec (.andReg x y) s = .next t ∧
      (∀ r, t.reg r = if r = x then s.reg x &&& s.reg y else s.reg r) ∧ s.sameBut t [.regs]) ∧
    (∃ t, exec (.xorReg x y) s = .next t ∧
      (∀ r, t.reg r = if r = x then s.reg x ^^^ s.reg y else s.reg r) ∧ s.sameBut t [.regs])

/-- 42_alu.md R186: sum modulo 256 and carry; at `x` = 15 the carry is what remains (90_conflicts.md C4). -/
def Obligations.AddSetsSumAndCarry : Prop :=
  ∀ (x y : Reg) (s : State),
    decodeWord (BitVec.ofNat 16 (0x8004 + x.val * 0x100 + y.val * 0x10)) = .ok (.addReg x y) ∧
    ∃ t, exec (.addReg x y) s = .next t ∧ s.sameBut t [.regs] ∧
      ∀ r, (t.reg r).toNat =
        if r = 15 then (if (s.reg x).toNat + (s.reg y).toNat > 255 then 1 else 0)
        else if r = x then ((s.reg x).toNat + (s.reg y).toNat) % 256
        else (s.reg r).toNat

/-- 42_alu.md R187 and R189: difference modulo 256 and the strict no-borrow flag (90_conflicts.md C5). -/
def Obligations.SubAndSubnSetDifferenceAndNoBorrow : Prop :=
  ∀ (x y : Reg) (s : State),
    decodeWord (BitVec.ofNat 16 (0x8005 + x.val * 0x100 + y.val * 0x10)) = .ok (.sub x y) ∧
    decodeWord (BitVec.ofNat 16 (0x8007 + x.val * 0x100 + y.val * 0x10)) = .ok (.subn x y) ∧
    (∃ t, exec (.sub x y) s = .next t ∧ s.sameBut t [.regs] ∧
      ∀ r, ((t.reg r).toNat : Int) =
        if r = 15 then (if (s.reg x).toNat > (s.reg y).toNat then 1 else 0)
        else if r = x then (((s.reg x).toNat : Int) - (s.reg y).toNat) % 256
        else (s.reg r).toNat) ∧
    (∃ t, exec (.subn x y) s = .next t ∧ s.sameBut t [.regs] ∧
      ∀ r, ((t.reg r).toNat : Int) =
        if r = 15 then (if (s.reg y).toNat > (s.reg x).toNat then 1 else 0)
        else if r = x then (((s.reg y).toNat : Int) - (s.reg x).toNat) % 256
        else (s.reg r).toNat)

/-- 42_alu.md R188 and R190, for both values of `SHIFT_READS_VY`; the formula of the branch that reads `V[y]` is the spec's
from general knowledge (log entry 10). -/
def Obligations.ShiftsSetResultAndShiftedOutBit : Prop :=
  ∀ (x y : Reg) (s : State) (src : Byte),
    src = (if s.cfg.shiftReadsVy = true then s.reg y else s.reg x) →
    decodeWord (BitVec.ofNat 16 (0x8006 + x.val * 0x100 + y.val * 0x10)) = .ok (.shr x y) ∧
    decodeWord (BitVec.ofNat 16 (0x800E + x.val * 0x100 + y.val * 0x10)) = .ok (.shl x y) ∧
    (∃ t, exec (.shr x y) s = .next t ∧ s.sameBut t [.regs] ∧
      ∀ r, (t.reg r).toNat =
        if r = 15 then src.toNat % 2 else if r = x then src.toNat / 2 else (s.reg r).toNat) ∧
    (∃ t, exec (.shl x y) s = .next t ∧ s.sameBut t [.regs] ∧
      ∀ r, (t.reg r).toNat =
        if r = 15 then src.toNat / 128 else if r = x then src.toNat * 2 % 256 else (s.reg r).toNat)

/-- 42_alu.md R192.  That the draw is `Config.rndDraw` at a counter is the model's choice (log entry 1); it has no known value, so this holds for
every draw; two
executions take two separate draws. -/
def Obligations.RndMasksAFreshDraw : Prop :=
  ∀ (x : Reg) (kk : Byte) (s : State),
    decodeWord (BitVec.ofNat 16 (0xC000 + x.val * 0x100 + kk.toNat)) = .ok (.rnd x kk) ∧
    ∃ t, exec (.rnd x kk) s = .next t ∧ s.sameBut t [.regs, .draws] ∧ t.draws = s.draws + 1 ∧
      (∀ r, t.reg r = if r = x then Config.rndDraw s.draws &&& kk else s.reg r) ∧
      (∀ k, kk.getLsbD k = false → (t.reg x).getLsbD k = false) ∧
      (kk = 0xFF → t.reg x = Config.rndDraw s.draws)

/-- 43_index_memory.md R210, R211 and R212. -/
def Obligations.IndexInstructionsSetI : Prop :=
  ∀ (x : Reg) (nnn : BitVec 12) (s : State),
    decodeWord (BitVec.ofNat 16 (0xA000 + nnn.toNat)) = .ok (.ldI nnn) ∧
    decodeWord (BitVec.ofNat 16 (0xF01E + x.val * 0x100)) = .ok (.addI x) ∧
    decodeWord (BitVec.ofNat 16 (0xF029 + x.val * 0x100)) = .ok (.ldF x) ∧
    (∃ t, exec (.ldI nnn) s = .next t ∧ t.idx.toNat = nnn.toNat ∧ s.sameBut t [.idx]) ∧
    (∃ t, exec (.addI x) s = .next t ∧
      t.idx.toNat = (s.idx.toNat + (s.reg x).toNat) % 65536 ∧ s.sameBut t [.idx]) ∧
    (∃ t, exec (.ldF x) s = .next t ∧ t.idx.toNat = (s.reg x).toNat * 5 ∧ s.sameBut t [.idx])

/-- 43_index_memory.md R213: the three digits, or rejection with nothing written. -/
def Obligations.LdBStoresTheDecimalDigits : Prop :=
  ∀ (x : Reg) (s : State),
    decodeWord (BitVec.ofNat 16 (0xF033 + x.val * 0x100)) = .ok (.ldB x) ∧
    (Memory.wf s.cfg s.mem = true → s.idx.toNat + 2 ≤ 4095 →
      ∃ t, exec (.ldB x) s = .next t ∧ s.sameBut t [.mem] ∧
        (t.readByte s.idx.toNat).toNat = (s.reg x).toNat / 100 ∧
        (t.readByte (s.idx.toNat + 1)).toNat = (s.reg x).toNat / 10 % 10 ∧
        (t.readByte (s.idx.toNat + 2)).toNat = (s.reg x).toNat % 10 ∧
        (∀ a, a < s.idx.toNat ∨ s.idx.toNat + 2 < a → t.readByte a = s.readByte a)) ∧
    (s.idx.toNat + 2 > 4095 →
      ∃ t, exec (.ldB x) s = .next t ∧ s.sameBut t [.diag] ∧
        t.diag = { valid := true, code := .memOutOfBounds, pc := s.pc - 2,
                   opcode := BitVec.ofNat 16 (0xF033 + x.val * 0x100) })

/-- 43_index_memory.md R214: `V0` to `Vx` inclusive, `I` unchanged, or rejection with nothing written. -/
def Obligations.RegisterDumpStoresTheRange : Prop :=
  ∀ (x : Reg) (s : State),
    decodeWord (BitVec.ofNat 16 (0xF055 + x.val * 0x100)) = .ok (.storeRegs x) ∧
    (Memory.wf s.cfg s.mem = true → s.idx.toNat + x.val ≤ 4095 →
      ∃ t, exec (.storeRegs x) s = .next t ∧ s.sameBut t [.mem] ∧
        (∀ r : Reg, r ≤ x → t.readByte (s.idx.toNat + r.val) = s.reg r) ∧
        (∀ a, a < s.idx.toNat ∨ s.idx.toNat + x.val < a → t.readByte a = s.readByte a)) ∧
    (s.idx.toNat + x.val > 4095 →
      ∃ t, exec (.storeRegs x) s = .next t ∧ s.sameBut t [.diag] ∧
        t.diag = { valid := true, code := .memOutOfBounds, pc := s.pc - 2,
                   opcode := BitVec.ofNat 16 (0xF055 + x.val * 0x100) })

/-- 43_index_memory.md R215: `V0` to `Vx` inclusive, the registers above and `I` unchanged, or rejection with nothing read. -/
def Obligations.RegisterLoadReadsTheRange : Prop :=
  ∀ (x : Reg) (s : State),
    decodeWord (BitVec.ofNat 16 (0xF065 + x.val * 0x100)) = .ok (.loadRegs x) ∧
    (s.idx.toNat + x.val ≤ 4095 →
      ∃ t, exec (.loadRegs x) s = .next t ∧ s.sameBut t [.regs] ∧
        (∀ r : Reg, t.reg r = if r ≤ x then s.readByte (s.idx.toNat + r.val) else s.reg r)) ∧
    (s.idx.toNat + x.val > 4095 →
      ∃ t, exec (.loadRegs x) s = .next t ∧ s.sameBut t [.diag] ∧
        t.diag = { valid := true, code := .memOutOfBounds, pc := s.pc - 2,
                   opcode := BitVec.ofNat 16 (0xF065 + x.val * 0x100) })

/-- A register load that finds the memory, the parameters and `I` as a register dump left them gives the dumped registers
back, whatever happened to the registers in between. -/
def Obligations.DumpThenLoadGivesTheRegistersBack : Prop :=
  ∀ (x : Reg) (s t u : State), Memory.wf s.cfg s.mem = true → s.idx.toNat + x.val ≤ 4095 →
    exec (.storeRegs x) s = .next t → u.cfg = t.cfg → u.mem = t.mem → u.idx = t.idx →
    ∃ w, exec (.loadRegs x) u = .next w ∧ ∀ r : Reg, r ≤ x → w.reg r = s.reg r

/-- 44_display.md R230: unconditional, and the flag is set on a blank framebuffer too. -/
def Obligations.ClsZeroesTheFramebuffer : Prop :=
  ∀ (ign : BitVec 4) (s : State),
    decodeWord (BitVec.ofNat 16 (ign.toNat * 0x100 + 0xE0)) = .ok (.cls ign) ∧
    ∃ t, exec (.cls ign) s = .next t ∧ (∀ x y, t.pixel x y = false) ∧ t.drawFlag = true ∧
      s.sameBut t [.fb, .drawFlag]

/-- 44_display.md R231 and R232, the compositor's result in the mask form of R234, which the spec marks as derived: a draw
in bounds XORs the sprite mask, placed with wrap-around on both axes, into the framebuffer and sets `VF` to the collision (1 exactly when a pixel under the mask was set); a draw beyond the end of memory sets
`VF` to 0, records it and does nothing else.  `VF` as a coordinate is read before it is written. -/
def Obligations.DrwXorsTheSpriteMaskAndReportsCollision : Prop :=
  ∀ (x y : Reg) (n : BitVec 4) (s : State),
    decodeWord (BitVec.ofNat 16 (0xD000 + x.val * 0x100 + y.val * 0x10 + n.toNat)) = .ok (.drw x y n) ∧
    (s.idx.toNat + n.toNat ≤ 4096 →
      ∃ t, exec (.drw x y n) s = .next t ∧ s.sameBut t [.fb, .regs, .drawFlag] ∧ t.drawFlag = true ∧
        (∀ px py, (s.drwMask x y n px py → t.pixel px py = !s.pixel px py) ∧
          (¬ s.drwMask x y n px py → t.pixel px py = s.pixel px py)) ∧
        ((∃ px py, s.drwMask x y n px py ∧ s.pixel px py = true) → t.reg 15 = 1) ∧
        ((¬ ∃ px py, s.drwMask x y n px py ∧ s.pixel px py = true) → t.reg 15 = 0) ∧
        (∀ r : Reg, r ≠ 15 → t.reg r = s.reg r)) ∧
    (s.idx.toNat + n.toNat > 4096 →
      ∃ t, exec (.drw x y n) s = .next t ∧ s.sameBut t [.regs, .diag] ∧
        (∀ r : Reg, t.reg r = if r = 15 then 0 else s.reg r) ∧
        t.diag = { valid := true, code := .spriteOutOfBounds, pc := s.pc - 2,
                   opcode := BitVec.ofNat 16 (0xD000 + x.val * 0x100 + y.val * 0x10 + n.toNat) })

/-- 44_display.md R235: two identical draws leave the framebuffer as it was; on a blank region the first reports no
collision and the second one exactly when the sprite has a set bit.  On any region the second reports a collision
exactly when a pixel under the mask was clear before the first: R235's inference says so without the
condition, R232 does not (log entry 15). -/
def Obligations.DrawingTwiceIsAnInvolution : Prop :=
  ∀ (cx cy : Byte) (rows : List Byte) (f : Framebuffer), rows.length ≤ 15 →
    (draw cx cy rows (draw cx cy rows f).1).1 = f ∧
    ((draw cx cy rows (draw cx cy rows f).1).2 = true ↔
      ∃ x y, spriteMask cx cy rows.length (fun r => rows.getD r 0) x y ∧ Framebuffer.pixel f x y = false) ∧
    ((∀ x y, spriteMask cx cy rows.length (fun r => rows.getD r 0) x y →
        Framebuffer.pixel f x y = false) →
      (draw cx cy rows f).2 = false ∧
      ((draw cx cy rows (draw cx cy rows f).1).2 = true ↔ ∃ b ∈ rows, b ≠ 0))

/-- The last clause of 44_display.md R235, an inference of the spec's own, as far as R232 and R234 carry it (log entry 15): the
second of two identical draws collides exactly when the sprite has a set bit, on every framebuffer but those where
the sprite has a set bit and each pixel under its mask was set before the first draw; there it does not collide. -/
def Obligations.TheSecondDrawCollidesUnlessAllItsPixelsWereSet : Prop :=
  ∀ (cx cy : Byte) (rows : List Byte) (f : Framebuffer), rows.length ≤ 15 →
    let allSet := ∀ x y, spriteMask cx cy rows.length (fun r => rows.getD r 0) x y →
      Framebuffer.pixel f x y = true
    (¬ ((∃ b ∈ rows, b ≠ 0) ∧ allSet) →
      ((draw cx cy rows (draw cx cy rows f).1).2 = true ↔ ∃ b ∈ rows, b ≠ 0)) ∧
    ((∃ b ∈ rows, b ≠ 0) ∧ allSet → (draw cx cy rows (draw cx cy rows f).1).2 = false)

/-- 45_timers_keys.md R250, R251 and R255: the key is read at `V[x]`, whole; an index above 15 never skips. -/
def Obligations.KeySkipsReadOneKeyLevel : Prop :=
  ∀ (x : Reg) (s : State),
    decodeWord (BitVec.ofNat 16 (0xE09E + x.val * 0x100)) = .ok (.skp x) ∧
    decodeWord (BitVec.ofNat 16 (0xE0A1 + x.val * 0x100)) = .ok (.sknp x) ∧
    (∀ k : Fin 16, (s.reg x).toNat = k.val →
      (∃ t, exec (.skp x) s = .next t ∧
        t.pc = (if s.keyDown k = true then s.pc + 2 else s.pc) ∧ s.sameBut t [.pc]) ∧
      (∃ t, exec (.sknp x) s = .next t ∧
        t.pc = (if s.keyDown k = false then s.pc + 2 else s.pc) ∧ s.sameBut t [.pc])) ∧
    ((s.reg x).toNat > 15 →
      (∃ t, exec (.skp x) s = .next t ∧ s.sameBut t [.diag] ∧
        t.diag = { valid := true, code := .keyIndexOutOfRange, pc := s.pc - 2,
                   opcode := BitVec.ofNat 16 (0xE09E + x.val * 0x100) }) ∧
      (∃ t, exec (.sknp x) s = .next t ∧ s.sameBut t [.diag] ∧
        t.diag = { valid := true, code := .keyIndexOutOfRange, pc := s.pc - 2,
                   opcode := BitVec.ofNat 16 (0xE0A1 + x.val * 0x100) }))

/-- 45_timers_keys.md R256 and R257: the lowest pressed key, or the same instruction again. -/
def Obligations.WaitForKeyTakesTheLowestKeyOrRepeats : Prop :=
  ∀ (x : Reg) (s : State),
    decodeWord (BitVec.ofNat 16 (0xF00A + x.val * 0x100)) = .ok (.ldVxK x) ∧
    (∀ k : Fin 16, s.keyDown k = true → (∀ j : Fin 16, j < k → s.keyDown j = false) →
      ∃ t, exec (.ldVxK x) s = .next t ∧ s.sameBut t [.regs] ∧
        ∀ r, (t.reg r).toNat = if r = x then k.val else (s.reg r).toNat) ∧
    ((∀ k : Fin 16, s.keyDown k = false) →
      ∃ t, exec (.ldVxK x) s = .next t ∧ t.pc = s.pc - 2 ∧ s.sameBut t [.pc])

/-- 45_timers_keys.md R257, over any number of cycles: with no key pressed a core at an LD Vx,K stays at it, each waiting cycle being a
complete one that ticks the timers. -/
def Obligations.WithNoKeyTheCoreWaitsForever : Prop :=
  ∀ (k : Nat) (s : State) (x : Reg), s.fsm = .ready → s.pc.toNat < 4095 →
    decodeWord s.fetchWord = .ok (.ldVxK x) → (∀ j : Fin 16, s.keyDown j = false) →
    ∃ t, Sys2Proof.core.run k s = .next t ∧ t.pc = s.pc ∧ t.dt.toNat = s.dt.toNat - k ∧
      t.st.toNat = s.st.toNat - k ∧ s.sameBut t [.dt, .st, .diag]

/-- 45_timers_keys.md R252, R253 and R254: the execute phase; the tick of the same cycle follows it. -/
def Obligations.TimerTransfersMoveOneByte : Prop :=
  ∀ (x : Reg) (s : State),
    decodeWord (BitVec.ofNat 16 (0xF007 + x.val * 0x100)) = .ok (.ldVxDt x) ∧
    decodeWord (BitVec.ofNat 16 (0xF015 + x.val * 0x100)) = .ok (.ldDtVx x) ∧
    decodeWord (BitVec.ofNat 16 (0xF018 + x.val * 0x100)) = .ok (.ldStVx x) ∧
    (∃ t, exec (.ldVxDt x) s = .next t ∧ (∀ r, t.reg r = if r = x then s.dt else s.reg r) ∧
      s.sameBut t [.regs]) ∧
    (∃ t, exec (.ldDtVx x) s = .next t ∧ t.dt = s.reg x ∧ s.sameBut t [.dt]) ∧
    (∃ t, exec (.ldStVx x) s = .next t ∧ t.st = s.reg x ∧ s.sameBut t [.st])

/-- 40_cycle_dispatch.md R137: SYS is a no-op that records `UnknownOpcode`, for every word of group 0x0 whose low byte is neither E0 nor
EE. -/
def Obligations.SysOnlyRecordsUnknownOpcode : Prop :=
  ∀ (nnn : BitVec 12) (s : State),
    (nnn.toNat % 0x100 ≠ 0xE0 → nnn.toNat % 0x100 ≠ 0xEE →
      decodeWord (BitVec.ofNat 16 nnn.toNat) = .ok (.sys nnn)) ∧
    ∃ t, exec (.sys nnn) s = .next t ∧ s.sameBut t [.diag] ∧
      t.diag = { valid := true, code := .unknownOpcode, pc := s.pc - 2,
                 opcode := BitVec.ofNat 16 nnn.toNat }

/-- The frame of every instruction: outside the parts its rule names, everything reads as before; among the registers, all but
its destinations and its flag; in memory, every byte outside the ones it stores at `I` on. -/
def Obligations.EveryInstructionKeepsItsFrame : Prop :=
  ∀ (i : Instr) (s t : State), exec i s = .next t →
    s.sameBut t (mayWrite i) ∧
    (∀ r : Reg, mayWriteReg r i = false → t.reg r = s.reg r) ∧
    (∀ a : Nat, a < s.indexed 0 ∨ s.indexed 0 + storeLength i ≤ a → t.readByte a = s.readByte a)

/-- Whole-machine rules over every step (10_state.md R35, R38, R42, R43, 44_display.md R236, 20_memory.md R71): the parameters and the keys
never change, the core never clears the draw flag, and `I`, memory, framebuffer and stack pointer change only in
the instructions named.  The last clause is about the model's own field `draws` (log entry 1): "`rnd` is consumed
only if the cycle executes RND" (10_state.md R61). -/
def Obligations.IndexMemoryFramebufferAndSpChangeOnlyInTheirInstructions : Prop :=
  ∀ s t : State, step s = .next t →
    t.cfg = s.cfg ∧ t.key = s.key ∧ (s.drawFlag = true → t.drawFlag = true) ∧
    (t.idx ≠ s.idx → (∃ nnn, decodeWord s.fetchWord = .ok (.ldI nnn)) ∨
      (∃ x, decodeWord s.fetchWord = .ok (.addI x)) ∨ ∃ x, decodeWord s.fetchWord = .ok (.ldF x)) ∧
    (t.mem ≠ s.mem → (∃ x, decodeWord s.fetchWord = .ok (.ldB x)) ∨
      ∃ x, decodeWord s.fetchWord = .ok (.storeRegs x)) ∧
    (t.fb ≠ s.fb → (∃ ign, decodeWord s.fetchWord = .ok (.cls ign)) ∨
      ∃ x y n, decodeWord s.fetchWord = .ok (.drw x y n)) ∧
    (t.sp ≠ s.sp → (∃ nnn, decodeWord s.fetchWord = .ok (.call nnn)) ∨
      ∃ ign, decodeWord s.fetchWord = .ok (.ret ign)) ∧
    (t.draws ≠ s.draws → ∃ x kk, decodeWord s.fetchWord = .ok (.rnd x kk))

/-- The other parts over every step of a READY core (10_state.md R32, R37, R39, R43, inferences of the spec's own in R32 and R37): a general
register changes only in an instruction that names it as destination or flag; `PC` stays in a guarded cycle and
is left post-fetch by every word but a jump, CALL, RET, skip or LD Vx,K; a stack entry changes only where a CALL
pushes its return address; the draw flag is set exactly where it was, in a CLS, and in a DRW in bounds.  `DT` and
`ST`, the record and the FSM have statements of their own: TimersTickExactlyOncePerCycle,
EachDiagnosticIsRaisedExactlyByItsCause with TheDiagnosticRecordNamesTheInstruction, OnlyFatalStackFaultsHalt. -/
def Obligations.RegistersPcStackAndDrawFlagChangeOnlyInTheirInstructions : Prop :=
  ∀ s t : State, s.fsm = .ready → step s = .next t →
    (∀ r : Reg, t.reg r ≠ s.reg r →
      s.pc.toNat < 4095 ∧ ∃ i, decodeWord s.fetchWord = .ok i ∧ mayWriteReg r i = true) ∧
    (s.pc.toNat ≥ 4095 → t.pc = s.pc) ∧
    (s.pc.toNat < 4095 → t.pc.toNat ≠ s.pc.toNat + 2 →
      ∃ i, decodeWord s.fetchWord = .ok i ∧ Part.pc ∈ mayWrite i) ∧
    (∀ j : Fin 16, t.stack[j] ≠ s.stack[j] →
      s.pc.toNat < 4095 ∧ (∃ nnn, decodeWord s.fetchWord = .ok (.call nnn)) ∧ j.val = s.sp.val ∧
        t.stack[j].toNat = s.pc.toNat + 2) ∧
    (t.drawFlag = true ↔ s.drawFlag = true ∨
      (s.pc.toNat < 4095 ∧ ((∃ ign, decodeWord s.fetchWord = .ok (.cls ign)) ∨
        ∃ x y n, decodeWord s.fetchWord = .ok (.drw x y n) ∧ s.idx.toNat + n.toNat ≤ 4096)))

/-- 10_state.md R45, R46 and 44_display.md R236: the core never reads the draw flag or the diagnostic record.  Two states that
differ in nothing else step, given the same draw, to two states that differ in nothing else.  A cycle's result is a
function of state, parameters and draw (00_scope.md R26, 10_state.md R61); that the two steps take the same draw is the
model's choice: they do because the two counts of draws are equal (log entry 1). -/
def Obligations.TheCoreNeverReadsWhatOnlyTheHostSees : Prop :=
  ∀ s s' t t' : State, s.sameButHostView s' → step s = .next t → step s' = .next t' →
    t.sameButHostView t'

/-- 10_state.md R39: no instruction reads a stack entry at or above `sp`.  Two states that differ only in such entries step,
given the same draw, to two states that differ only in such entries.  That the two steps take the same draw is the
model's choice: they do because the two counts of draws are equal (log entry 1; 00_scope.md R26, 10_state.md R61). -/
def Obligations.NoInstructionReadsAStaleStackEntry : Prop :=
  ∀ s s' t t' : State, s.sameButStaleStack s' → step s = .next t → step s' = .next t' →
    t.sameButStaleStack t'

/-- 10_state.md R50 and 70_reset_and_hazards.md R300: every piece of state after a reset that takes the parameters `c`, from any state. -/
def Obligations.ResetGivesEveryPieceItsValue : Prop :=
  ∀ (s : State) (c : Config),
    (∀ a (h : a < 80), (s.hostReset c).readByte a = c.fontset[a]) ∧
    (∀ a, 80 ≤ a → a < 4096 → (s.hostReset c).readByte a = 0) ∧
    (∀ r, (s.hostReset c).reg r = 0) ∧ (s.hostReset c).idx = 0 ∧ (s.hostReset c).pc = 0x200 ∧
    (s.hostReset c).sp = 0 ∧ (∀ j : Fin 16, (s.hostReset c).stack[j] = 0) ∧
    (s.hostReset c).dt = 0 ∧ (s.hostReset c).st = 0 ∧
    (∀ x y, (s.hostReset c).pixel x y = false) ∧ (∀ k, (s.hostReset c).keyDown k = false) ∧
    (s.hostReset c).drawFlag = false ∧ (s.hostReset c).fsm = .ready ∧
    (s.hostReset c).diag = { valid := false, code := .none, pc := 0, opcode := 0 } ∧
    (s.hostReset c).cfg = c ∧ (State.resetWith c).sameBut (s.hostReset c) [.draws]

/-- 70_reset_and_hazards.md R302 and R305: a load resets first; a ROM of at most 3584 bytes stands at 0x200 on, a longer one is refused with no
byte of it written. -/
def Obligations.LoadResetsAndPlacesTheRom : Prop :=
  ∀ (s : State) (c : Config) (rom : List Byte),
    (rom.length ≤ 3584 → (s.load c rom).2 = .ok ∧
      (State.resetWith c).sameBut (s.load c rom).1 [.mem, .draws] ∧
      (∀ i, i < rom.length → (s.load c rom).1.readByte (0x200 + i) = rom.getD i 0) ∧
      (∀ a, a < 0x200 ∨ 0x200 + rom.length ≤ a →
        (s.load c rom).1.readByte a = (State.resetWith c).readByte a)) ∧
    (rom.length > 3584 → s.load c rom = (s.hostReset c, .romTooLarge))

/-- 60_exceptions.md R290: the 4118 bytes of a dump and where each field stands in it. -/
def Obligations.DumpHasTheFixedLayout : Prop :=
  ∀ s : State, s.dump.length = 4118 ∧
    (∀ a, a < 4096 → s.dump.getD a 0 = s.readByte a) ∧
    (∀ r : Reg, s.dump.getD (4096 + r.val) 0 = s.reg r) ∧
    (s.dump.getD 4112 0).toNat = s.idx.toNat % 256 ∧ (s.dump.getD 4113 0).toNat = s.idx.toNat / 256 ∧
    (s.dump.getD 4114 0).toNat = s.pc.toNat % 256 ∧ (s.dump.getD 4115 0).toNat = s.pc.toNat / 256 ∧
    s.dump.getD 4116 0 = s.dt ∧ s.dump.getD 4117 0 = s.st

/-- 60_exceptions.md R291 and the source's sentence in R292: a restore writes the dumped fields from the image and keeps the rest, refuses any other length, and
restoring its own dump leaves a machine as it is. -/
def Obligations.RestoreIsTheInverseOfDump : Prop :=
  (∀ s : State, Memory.wf s.cfg s.mem = true → s.restore s.dump = (s, .ok)) ∧
  (∀ (s : State) (image : List Byte), image.length ≠ 4118 → s.restore image = (s, .refused)) ∧
  (∀ (s : State) (image : List Byte), Memory.wf s.cfg s.mem = true → image.length = 4118 →
    (s.restore image).2 = .ok ∧
    (∀ a, a < 4096 → (s.restore image).1.readByte a = image.getD a 0) ∧
    (∀ r : Reg, (s.restore image).1.reg r = image.getD (4096 + r.val) 0) ∧
    (s.restore image).1.idx.toNat = (image.getD 4112 0).toNat + 256 * (image.getD 4113 0).toNat ∧
    (s.restore image).1.pc.toNat = (image.getD 4114 0).toNat + 256 * (image.getD 4115 0).toNat ∧
    (s.restore image).1.dt = image.getD 4116 0 ∧ (s.restore image).1.st = image.getD 4117 0 ∧
    s.sameBut (s.restore image).1 [.mem, .regs, .idx, .pc, .dt, .st])

/-- 10_state.md R63 and R64: what `read_outputs` returns, that it changes no state, and that `clear_draw_flag` clears the draw
flag and nothing else. -/
def Obligations.OutputsShowTheFramebufferAndTheStatus : Prop :=
  ∀ s : State, s.perform .readOutputs = (s, .outputs s.readOutputs) ∧
    s.readOutputs.cells.length = 2048 ∧
    (∀ (x : Fin 64) (y : Fin 32),
      s.readOutputs.cells.getD (y.val * 64 + x.val) 0 = if s.pixel x y = true then 1 else 0) ∧
    s.readOutputs.drawFlag = s.drawFlag ∧
    (s.readOutputs.toneActive = true ↔ s.st.toNat ≠ 0) ∧
    (s.readOutputs.halted = true ↔ s.fsm = .halted) ∧
    s.readOutputs.diagValid = s.diag.valid ∧
    s.readOutputs.diagPc = s.diag.pc ∧ s.readOutputs.diagOpcode = s.diag.opcode ∧
    ((s.diag.code = .none → s.readOutputs.diagCode.toNat = 0) ∧
      (s.diag.code = .unknownOpcode → s.readOutputs.diagCode.toNat = 1) ∧
      (s.diag.code = .stackOverflow → s.readOutputs.diagCode.toNat = 2) ∧
      (s.diag.code = .stackUnderflow → s.readOutputs.diagCode.toNat = 3) ∧
      (s.diag.code = .spriteOutOfBounds → s.readOutputs.diagCode.toNat = 4) ∧
      (s.diag.code = .memOutOfBounds → s.readOutputs.diagCode.toNat = 5) ∧
      (s.diag.code = .keyIndexOutOfRange → s.readOutputs.diagCode.toNat = 6) ∧
      (s.diag.code = .fetchOutOfBounds → s.readOutputs.diagCode.toNat = 7)) ∧
    (s.perform .clearDrawFlag).1.drawFlag = false ∧
    s.sameBut (s.perform .clearDrawFlag).1 [.drawFlag]

/-- 10_state.md R62: the host's keys reach the keypad, bit by bit, and nothing else; and a dump changes nothing (R65). -/
def Obligations.WriteKeysSetsTheKeypadAlone : Prop :=
  ∀ (s : State) (w : BitVec 16),
    (∀ k : Fin 16, (s.perform (.writeKeys w)).1.keyDown k = w.getLsbD k.val) ∧
    s.sameBut (s.perform (.writeKeys w)).1 [.key] ∧ (s.perform .dump).1 = s
end

