-- ==== Sys2Proof/Laws/State.lean ====
section
/-! SUPPORT. One lemma per field per update of the state, each true by unfolding the update once, and the same
for the model's reads of one register, byte, pixel and key.  No later proof unfolds a record update. -/

namespace Sys2Proof.Machine

variable (s : State)

@[simp] theorem State.setMem_cfg (a : Memory) : (s.setMem a).cfg = s.cfg := rfl
@[simp] theorem State.setMem_mem (a : Memory) : (s.setMem a).mem = a := rfl
@[simp] theorem State.setMem_v (a : Memory) : (s.setMem a).v = s.v := rfl
@[simp] theorem State.setMem_idx (a : Memory) : (s.setMem a).idx = s.idx := rfl
@[simp] theorem State.setMem_pc (a : Memory) : (s.setMem a).pc = s.pc := rfl
@[simp] theorem State.setMem_stack (a : Memory) : (s.setMem a).stack = s.stack := rfl
@[simp] theorem State.setMem_sp (a : Memory) : (s.setMem a).sp = s.sp := rfl
@[simp] theorem State.setMem_dt (a : Memory) : (s.setMem a).dt = s.dt := rfl
@[simp] theorem State.setMem_st (a : Memory) : (s.setMem a).st = s.st := rfl
@[simp] theorem State.setMem_fb (a : Memory) : (s.setMem a).fb = s.fb := rfl
@[simp] theorem State.setMem_key (a : Memory) : (s.setMem a).key = s.key := rfl
@[simp] theorem State.setMem_drawFlag (a : Memory) : (s.setMem a).drawFlag = s.drawFlag := rfl
@[simp] theorem State.setMem_fsm (a : Memory) : (s.setMem a).fsm = s.fsm := rfl
@[simp] theorem State.setMem_diag (a : Memory) : (s.setMem a).diag = s.diag := rfl
@[simp] theorem State.setMem_draws (a : Memory) : (s.setMem a).draws = s.draws := rfl
@[simp] theorem State.setMem_reg (a : Memory) (r : Reg) : (s.setMem a).reg r = s.reg r := rfl
@[simp] theorem State.setMem_pixel (a : Memory) (x : Fin 64) (y : Fin 32) : (s.setMem a).pixel x y = s.pixel x y := rfl
@[simp] theorem State.setMem_keyDown (a : Memory) (k : Fin 16) : (s.setMem a).keyDown k = s.keyDown k := rfl

@[simp] theorem State.setV_cfg (a : Vector Byte 16) : (s.setV a).cfg = s.cfg := rfl
@[simp] theorem State.setV_mem (a : Vector Byte 16) : (s.setV a).mem = s.mem := rfl
@[simp] theorem State.setV_v (a : Vector Byte 16) : (s.setV a).v = a := rfl
@[simp] theorem State.setV_idx (a : Vector Byte 16) : (s.setV a).idx = s.idx := rfl
@[simp] theorem State.setV_pc (a : Vector Byte 16) : (s.setV a).pc = s.pc := rfl
@[simp] theorem State.setV_stack (a : Vector Byte 16) : (s.setV a).stack = s.stack := rfl
@[simp] theorem State.setV_sp (a : Vector Byte 16) : (s.setV a).sp = s.sp := rfl
@[simp] theorem State.setV_dt (a : Vector Byte 16) : (s.setV a).dt = s.dt := rfl
@[simp] theorem State.setV_st (a : Vector Byte 16) : (s.setV a).st = s.st := rfl
@[simp] theorem State.setV_fb (a : Vector Byte 16) : (s.setV a).fb = s.fb := rfl
@[simp] theorem State.setV_key (a : Vector Byte 16) : (s.setV a).key = s.key := rfl
@[simp] theorem State.setV_drawFlag (a : Vector Byte 16) : (s.setV a).drawFlag = s.drawFlag := rfl
@[simp] theorem State.setV_fsm (a : Vector Byte 16) : (s.setV a).fsm = s.fsm := rfl
@[simp] theorem State.setV_diag (a : Vector Byte 16) : (s.setV a).diag = s.diag := rfl
@[simp] theorem State.setV_draws (a : Vector Byte 16) : (s.setV a).draws = s.draws := rfl
@[simp] theorem State.setV_readByte (a : Vector Byte 16) (i : Nat) : (s.setV a).readByte i = s.readByte i := rfl
@[simp] theorem State.setV_pixel (a : Vector Byte 16) (x : Fin 64) (y : Fin 32) : (s.setV a).pixel x y = s.pixel x y := rfl
@[simp] theorem State.setV_keyDown (a : Vector Byte 16) (k : Fin 16) : (s.setV a).keyDown k = s.keyDown k := rfl

@[simp] theorem State.setIdx_cfg (a : Word) : (s.setIdx a).cfg = s.cfg := rfl
@[simp] theorem State.setIdx_mem (a : Word) : (s.setIdx a).mem = s.mem := rfl
@[simp] theorem State.setIdx_v (a : Word) : (s.setIdx a).v = s.v := rfl
@[simp] theorem State.setIdx_idx (a : Word) : (s.setIdx a).idx = a := rfl
@[simp] theorem State.setIdx_pc (a : Word) : (s.setIdx a).pc = s.pc := rfl
@[simp] theorem State.setIdx_stack (a : Word) : (s.setIdx a).stack = s.stack := rfl
@[simp] theorem State.setIdx_sp (a : Word) : (s.setIdx a).sp = s.sp := rfl
@[simp] theorem State.setIdx_dt (a : Word) : (s.setIdx a).dt = s.dt := rfl
@[simp] theorem State.setIdx_st (a : Word) : (s.setIdx a).st = s.st := rfl
@[simp] theorem State.setIdx_fb (a : Word) : (s.setIdx a).fb = s.fb := rfl
@[simp] theorem State.setIdx_key (a : Word) : (s.setIdx a).key = s.key := rfl
@[simp] theorem State.setIdx_drawFlag (a : Word) : (s.setIdx a).drawFlag = s.drawFlag := rfl
@[simp] theorem State.setIdx_fsm (a : Word) : (s.setIdx a).fsm = s.fsm := rfl
@[simp] theorem State.setIdx_diag (a : Word) : (s.setIdx a).diag = s.diag := rfl
@[simp] theorem State.setIdx_draws (a : Word) : (s.setIdx a).draws = s.draws := rfl
@[simp] theorem State.setIdx_reg (a : Word) (r : Reg) : (s.setIdx a).reg r = s.reg r := rfl
@[simp] theorem State.setIdx_readByte (a : Word) (i : Nat) : (s.setIdx a).readByte i = s.readByte i := rfl
@[simp] theorem State.setIdx_pixel (a : Word) (x : Fin 64) (y : Fin 32) : (s.setIdx a).pixel x y = s.pixel x y := rfl
@[simp] theorem State.setIdx_keyDown (a : Word) (k : Fin 16) : (s.setIdx a).keyDown k = s.keyDown k := rfl

@[simp] theorem State.setPc_cfg (a : Word) : (s.setPc a).cfg = s.cfg := rfl
@[simp] theorem State.setPc_mem (a : Word) : (s.setPc a).mem = s.mem := rfl
@[simp] theorem State.setPc_v (a : Word) : (s.setPc a).v = s.v := rfl
@[simp] theorem State.setPc_idx (a : Word) : (s.setPc a).idx = s.idx := rfl
@[simp] theorem State.setPc_pc (a : Word) : (s.setPc a).pc = a := rfl
@[simp] theorem State.setPc_stack (a : Word) : (s.setPc a).stack = s.stack := rfl
@[simp] theorem State.setPc_sp (a : Word) : (s.setPc a).sp = s.sp := rfl
@[simp] theorem State.setPc_dt (a : Word) : (s.setPc a).dt = s.dt := rfl
@[simp] theorem State.setPc_st (a : Word) : (s.setPc a).st = s.st := rfl
@[simp] theorem State.setPc_fb (a : Word) : (s.setPc a).fb = s.fb := rfl
@[simp] theorem State.setPc_key (a : Word) : (s.setPc a).key = s.key := rfl
@[simp] theorem State.setPc_drawFlag (a : Word) : (s.setPc a).drawFlag = s.drawFlag := rfl
@[simp] theorem State.setPc_fsm (a : Word) : (s.setPc a).fsm = s.fsm := rfl
@[simp] theorem State.setPc_diag (a : Word) : (s.setPc a).diag = s.diag := rfl
@[simp] theorem State.setPc_draws (a : Word) : (s.setPc a).draws = s.draws := rfl
@[simp] theorem State.setPc_reg (a : Word) (r : Reg) : (s.setPc a).reg r = s.reg r := rfl
@[simp] theorem State.setPc_readByte (a : Word) (i : Nat) : (s.setPc a).readByte i = s.readByte i := rfl
@[simp] theorem State.setPc_pixel (a : Word) (x : Fin 64) (y : Fin 32) : (s.setPc a).pixel x y = s.pixel x y := rfl
@[simp] theorem State.setPc_keyDown (a : Word) (k : Fin 16) : (s.setPc a).keyDown k = s.keyDown k := rfl

@[simp] theorem State.setStack_cfg (a : Vector Word 16) : (s.setStack a).cfg = s.cfg := rfl
@[simp] theorem State.setStack_mem (a : Vector Word 16) : (s.setStack a).mem = s.mem := rfl
@[simp] theorem State.setStack_v (a : Vector Word 16) : (s.setStack a).v = s.v := rfl
@[simp] theorem State.setStack_idx (a : Vector Word 16) : (s.setStack a).idx = s.idx := rfl
@[simp] theorem State.setStack_pc (a : Vector Word 16) : (s.setStack a).pc = s.pc := rfl
@[simp] theorem State.setStack_stack (a : Vector Word 16) : (s.setStack a).stack = a := rfl
@[simp] theorem State.setStack_sp (a : Vector Word 16) : (s.setStack a).sp = s.sp := rfl
@[simp] theorem State.setStack_dt (a : Vector Word 16) : (s.setStack a).dt = s.dt := rfl
@[simp] theorem State.setStack_st (a : Vector Word 16) : (s.setStack a).st = s.st := rfl
@[simp] theorem State.setStack_fb (a : Vector Word 16) : (s.setStack a).fb = s.fb := rfl
@[simp] theorem State.setStack_key (a : Vector Word 16) : (s.setStack a).key = s.key := rfl
@[simp] theorem State.setStack_drawFlag (a : Vector Word 16) : (s.setStack a).drawFlag = s.drawFlag := rfl
@[simp] theorem State.setStack_fsm (a : Vector Word 16) : (s.setStack a).fsm = s.fsm := rfl
@[simp] theorem State.setStack_diag (a : Vector Word 16) : (s.setStack a).diag = s.diag := rfl
@[simp] theorem State.setStack_draws (a : Vector Word 16) : (s.setStack a).draws = s.draws := rfl
@[simp] theorem State.setStack_reg (a : Vector Word 16) (r : Reg) : (s.setStack a).reg r = s.reg r := rfl
@[simp] theorem State.setStack_readByte (a : Vector Word 16) (i : Nat) : (s.setStack a).readByte i = s.readByte i := rfl
@[simp] theorem State.setStack_pixel (a : Vector Word 16) (x : Fin 64) (y : Fin 32) : (s.setStack a).pixel x y = s.pixel x y := rfl
@[simp] theorem State.setStack_keyDown (a : Vector Word 16) (k : Fin 16) : (s.setStack a).keyDown k = s.keyDown k := rfl

@[simp] theorem State.setSp_cfg (a : Fin 17) : (s.setSp a).cfg = s.cfg := rfl
@[simp] theorem State.setSp_mem (a : Fin 17) : (s.setSp a).mem = s.mem := rfl
@[simp] theorem State.setSp_v (a : Fin 17) : (s.setSp a).v = s.v := rfl
@[simp] theorem State.setSp_idx (a : Fin 17) : (s.setSp a).idx = s.idx := rfl
@[simp] theorem State.setSp_pc (a : Fin 17) : (s.setSp a).pc = s.pc := rfl
@[simp] theorem State.setSp_stack (a : Fin 17) : (s.setSp a).stack = s.stack := rfl
@[simp] theorem State.setSp_sp (a : Fin 17) : (s.setSp a).sp = a := rfl
@[simp] theorem State.setSp_dt (a : Fin 17) : (s.setSp a).dt = s.dt := rfl
@[simp] theorem State.setSp_st (a : Fin 17) : (s.setSp a).st = s.st := rfl
@[simp] theorem State.setSp_fb (a : Fin 17) : (s.setSp a).fb = s.fb := rfl
@[simp] theorem State.setSp_key (a : Fin 17) : (s.setSp a).key = s.key := rfl
@[simp] theorem State.setSp_drawFlag (a : Fin 17) : (s.setSp a).drawFlag = s.drawFlag := rfl
@[simp] theorem State.setSp_fsm (a : Fin 17) : (s.setSp a).fsm = s.fsm := rfl
@[simp] theorem State.setSp_diag (a : Fin 17) : (s.setSp a).diag = s.diag := rfl
@[simp] theorem State.setSp_draws (a : Fin 17) : (s.setSp a).draws = s.draws := rfl
@[simp] theorem State.setSp_reg (a : Fin 17) (r : Reg) : (s.setSp a).reg r = s.reg r := rfl
@[simp] theorem State.setSp_readByte (a : Fin 17) (i : Nat) : (s.setSp a).readByte i = s.readByte i := rfl
@[simp] theorem State.setSp_pixel (a : Fin 17) (x : Fin 64) (y : Fin 32) : (s.setSp a).pixel x y = s.pixel x y := rfl
@[simp] theorem State.setSp_keyDown (a : Fin 17) (k : Fin 16) : (s.setSp a).keyDown k = s.keyDown k := rfl

@[simp] theorem State.setDt_cfg (a : Byte) : (s.setDt a).cfg = s.cfg := rfl
@[simp] theorem State.setDt_mem (a : Byte) : (s.setDt a).mem = s.mem := rfl
@[simp] theorem State.setDt_v (a : Byte) : (s.setDt a).v = s.v := rfl
@[simp] theorem State.setDt_idx (a : Byte) : (s.setDt a).idx = s.idx := rfl
@[simp] theorem State.setDt_pc (a : Byte) : (s.setDt a).pc = s.pc := rfl
@[simp] theorem State.setDt_stack (a : Byte) : (s.setDt a).stack = s.stack := rfl
@[simp] theorem State.setDt_sp (a : Byte) : (s.setDt a).sp = s.sp := rfl
@[simp] theorem State.setDt_dt (a : Byte) : (s.setDt a).dt = a := rfl
@[simp] theorem State.setDt_st (a : Byte) : (s.setDt a).st = s.st := rfl
@[simp] theorem State.setDt_fb (a : Byte) : (s.setDt a).fb = s.fb := rfl
@[simp] theorem State.setDt_key (a : Byte) : (s.setDt a).key = s.key := rfl
@[simp] theorem State.setDt_drawFlag (a : Byte) : (s.setDt a).drawFlag = s.drawFlag := rfl
@[simp] theorem State.setDt_fsm (a : Byte) : (s.setDt a).fsm = s.fsm := rfl
@[simp] theorem State.setDt_diag (a : Byte) : (s.setDt a).diag = s.diag := rfl
@[simp] theorem State.setDt_draws (a : Byte) : (s.setDt a).draws = s.draws := rfl
@[simp] theorem State.setDt_reg (a : Byte) (r : Reg) : (s.setDt a).reg r = s.reg r := rfl
@[simp] theorem State.setDt_readByte (a : Byte) (i : Nat) : (s.setDt a).readByte i = s.readByte i := rfl
@[simp] theorem State.setDt_pixel (a : Byte) (x : Fin 64) (y : Fin 32) : (s.setDt a).pixel x y = s.pixel x y := rfl
@[simp] theorem State.setDt_keyDown (a : Byte) (k : Fin 16) : (s.setDt a).keyDown k = s.keyDown k := rfl

@[simp] theorem State.setSt_cfg (a : Byte) : (s.setSt a).cfg = s.cfg := rfl
@[simp] theorem State.setSt_mem (a : Byte) : (s.setSt a).mem = s.mem := rfl
@[simp] theorem State.setSt_v (a : Byte) : (s.setSt a).v = s.v := rfl
@[simp] theorem State.setSt_idx (a : Byte) : (s.setSt a).idx = s.idx := rfl
@[simp] theorem State.setSt_pc (a : Byte) : (s.setSt a).pc = s.pc := rfl
@[simp] theorem State.setSt_stack (a : Byte) : (s.setSt a).stack = s.stack := rfl
@[simp] theorem State.setSt_sp (a : Byte) : (s.setSt a).sp = s.sp := rfl
@[simp] theorem State.setSt_dt (a : Byte) : (s.setSt a).dt = s.dt := rfl
@[simp] theorem State.setSt_st (a : Byte) : (s.setSt a).st = a := rfl
@[simp] theorem State.setSt_fb (a : Byte) : (s.setSt a).fb = s.fb := rfl
@[simp] theorem State.setSt_key (a : Byte) : (s.setSt a).key = s.key := rfl
@[simp] theorem State.setSt_drawFlag (a : Byte) : (s.setSt a).drawFlag = s.drawFlag := rfl
@[simp] theorem State.setSt_fsm (a : Byte) : (s.setSt a).fsm = s.fsm := rfl
@[simp] theorem State.setSt_diag (a : Byte) : (s.setSt a).diag = s.diag := rfl
@[simp] theorem State.setSt_draws (a : Byte) : (s.setSt a).draws = s.draws := rfl
@[simp] theorem State.setSt_reg (a : Byte) (r : Reg) : (s.setSt a).reg r = s.reg r := rfl
@[simp] theorem State.setSt_readByte (a : Byte) (i : Nat) : (s.setSt a).readByte i = s.readByte i := rfl
@[simp] theorem State.setSt_pixel (a : Byte) (x : Fin 64) (y : Fin 32) : (s.setSt a).pixel x y = s.pixel x y := rfl
@[simp] theorem State.setSt_keyDown (a : Byte) (k : Fin 16) : (s.setSt a).keyDown k = s.keyDown k := rfl

@[simp] theorem State.setFb_cfg (a : Framebuffer) : (s.setFb a).cfg = s.cfg := rfl
@[simp] theorem State.setFb_mem (a : Framebuffer) : (s.setFb a).mem = s.mem := rfl
@[simp] theorem State.setFb_v (a : Framebuffer) : (s.setFb a).v = s.v := rfl
@[simp] theorem State.setFb_idx (a : Framebuffer) : (s.setFb a).idx = s.idx := rfl
@[simp] theorem State.setFb_pc (a : Framebuffer) : (s.setFb a).pc = s.pc := rfl
@[simp] theorem State.setFb_stack (a : Framebuffer) : (s.setFb a).stack = s.stack := rfl
@[simp] theorem State.setFb_sp (a : Framebuffer) : (s.setFb a).sp = s.sp := rfl
@[simp] theorem State.setFb_dt (a : Framebuffer) : (s.setFb a).dt = s.dt := rfl
@[simp] theorem State.setFb_st (a : Framebuffer) : (s.setFb a).st = s.st := rfl
@[simp] theorem State.setFb_fb (a : Framebuffer) : (s.setFb a).fb = a := rfl
@[simp] theorem State.setFb_key (a : Framebuffer) : (s.setFb a).key = s.key := rfl
@[simp] theorem State.setFb_drawFlag (a : Framebuffer) : (s.setFb a).drawFlag = s.drawFlag := rfl
@[simp] theorem State.setFb_fsm (a : Framebuffer) : (s.setFb a).fsm = s.fsm := rfl
@[simp] theorem State.setFb_diag (a : Framebuffer) : (s.setFb a).diag = s.diag := rfl
@[simp] theorem State.setFb_draws (a : Framebuffer) : (s.setFb a).draws = s.draws := rfl
@[simp] theorem State.setFb_reg (a : Framebuffer) (r : Reg) : (s.setFb a).reg r = s.reg r := rfl
@[simp] theorem State.setFb_readByte (a : Framebuffer) (i : Nat) : (s.setFb a).readByte i = s.readByte i := rfl
@[simp] theorem State.setFb_keyDown (a : Framebuffer) (k : Fin 16) : (s.setFb a).keyDown k = s.keyDown k := rfl

@[simp] theorem State.setKey_cfg (a : BitVec 16) : (s.setKey a).cfg = s.cfg := rfl
@[simp] theorem State.setKey_mem (a : BitVec 16) : (s.setKey a).mem = s.mem := rfl
@[simp] theorem State.setKey_v (a : BitVec 16) : (s.setKey a).v = s.v := rfl
@[simp] theorem State.setKey_idx (a : BitVec 16) : (s.setKey a).idx = s.idx := rfl
@[simp] theorem State.setKey_pc (a : BitVec 16) : (s.setKey a).pc = s.pc := rfl
@[simp] theorem State.setKey_stack (a : BitVec 16) : (s.setKey a).stack = s.stack := rfl
@[simp] theorem State.setKey_sp (a : BitVec 16) : (s.setKey a).sp = s.sp := rfl
@[simp] theorem State.setKey_dt (a : BitVec 16) : (s.setKey a).dt = s.dt := rfl
@[simp] theorem State.setKey_st (a : BitVec 16) : (s.setKey a).st = s.st := rfl
@[simp] theorem State.setKey_fb (a : BitVec 16) : (s.setKey a).fb = s.fb := rfl
@[simp] theorem State.setKey_key (a : BitVec 16) : (s.setKey a).key = a := rfl
@[simp] theorem State.setKey_drawFlag (a : BitVec 16) : (s.setKey a).drawFlag = s.drawFlag := rfl
@[simp] theorem State.setKey_fsm (a : BitVec 16) : (s.setKey a).fsm = s.fsm := rfl
@[simp] theorem State.setKey_diag (a : BitVec 16) : (s.setKey a).diag = s.diag := rfl
@[simp] theorem State.setKey_draws (a : BitVec 16) : (s.setKey a).draws = s.draws := rfl
@[simp] theorem State.setKey_reg (a : BitVec 16) (r : Reg) : (s.setKey a).reg r = s.reg r := rfl
@[simp] theorem State.setKey_readByte (a : BitVec 16) (i : Nat) : (s.setKey a).readByte i = s.readByte i := rfl
@[simp] theorem State.setKey_pixel (a : BitVec 16) (x : Fin 64) (y : Fin 32) : (s.setKey a).pixel x y = s.pixel x y := rfl

@[simp] theorem State.setDrawFlag_cfg (a : Bool) : (s.setDrawFlag a).cfg = s.cfg := rfl
@[simp] theorem State.setDrawFlag_mem (a : Bool) : (s.setDrawFlag a).mem = s.mem := rfl
@[simp] theorem State.setDrawFlag_v (a : Bool) : (s.setDrawFlag a).v = s.v := rfl
@[simp] theorem State.setDrawFlag_idx (a : Bool) : (s.setDrawFlag a).idx = s.idx := rfl
@[simp] theorem State.setDrawFlag_pc (a : Bool) : (s.setDrawFlag a).pc = s.pc := rfl
@[simp] theorem State.setDrawFlag_stack (a : Bool) : (s.setDrawFlag a).stack = s.stack := rfl
@[simp] theorem State.setDrawFlag_sp (a : Bool) : (s.setDrawFlag a).sp = s.sp := rfl
@[simp] theorem State.setDrawFlag_dt (a : Bool) : (s.setDrawFlag a).dt = s.dt := rfl
@[simp] theorem State.setDrawFlag_st (a : Bool) : (s.setDrawFlag a).st = s.st := rfl
@[simp] theorem State.setDrawFlag_fb (a : Bool) : (s.setDrawFlag a).fb = s.fb := rfl
@[simp] theorem State.setDrawFlag_key (a : Bool) : (s.setDrawFlag a).key = s.key := rfl
@[simp] theorem State.setDrawFlag_drawFlag (a : Bool) : (s.setDrawFlag a).drawFlag = a := rfl
@[simp] theorem State.setDrawFlag_fsm (a : Bool) : (s.setDrawFlag a).fsm = s.fsm := rfl
@[simp] theorem State.setDrawFlag_diag (a : Bool) : (s.setDrawFlag a).diag = s.diag := rfl
@[simp] theorem State.setDrawFlag_draws (a : Bool) : (s.setDrawFlag a).draws = s.draws := rfl
@[simp] theorem State.setDrawFlag_reg (a : Bool) (r : Reg) : (s.setDrawFlag a).reg r = s.reg r := rfl
@[simp] theorem State.setDrawFlag_readByte (a : Bool) (i : Nat) : (s.setDrawFlag a).readByte i = s.readByte i := rfl
@[simp] theorem State.setDrawFlag_pixel (a : Bool) (x : Fin 64) (y : Fin 32) : (s.setDrawFlag a).pixel x y = s.pixel x y := rfl
@[simp] theorem State.setDrawFlag_keyDown (a : Bool) (k : Fin 16) : (s.setDrawFlag a).keyDown k = s.keyDown k := rfl

@[simp] theorem State.setFsm_cfg (a : Fsm) : (s.setFsm a).cfg = s.cfg := rfl
@[simp] theorem State.setFsm_mem (a : Fsm) : (s.setFsm a).mem = s.mem := rfl
@[simp] theorem State.setFsm_v (a : Fsm) : (s.setFsm a).v = s.v := rfl
@[simp] theorem State.setFsm_idx (a : Fsm) : (s.setFsm a).idx = s.idx := rfl
@[simp] theorem State.setFsm_pc (a : Fsm) : (s.setFsm a).pc = s.pc := rfl
@[simp] theorem State.setFsm_stack (a : Fsm) : (s.setFsm a).stack = s.stack := rfl
@[simp] theorem State.setFsm_sp (a : Fsm) : (s.setFsm a).sp = s.sp := rfl
@[simp] theorem State.setFsm_dt (a : Fsm) : (s.setFsm a).dt = s.dt := rfl
@[simp] theorem State.setFsm_st (a : Fsm) : (s.setFsm a).st = s.st := rfl
@[simp] theorem State.setFsm_fb (a : Fsm) : (s.setFsm a).fb = s.fb := rfl
@[simp] theorem State.setFsm_key (a : Fsm) : (s.setFsm a).key = s.key := rfl
@[simp] theorem State.setFsm_drawFlag (a : Fsm) : (s.setFsm a).drawFlag = s.drawFlag := rfl
@[simp] theorem State.setFsm_fsm (a : Fsm) : (s.setFsm a).fsm = a := rfl
@[simp] theorem State.setFsm_diag (a : Fsm) : (s.setFsm a).diag = s.diag := rfl
@[simp] theorem State.setFsm_draws (a : Fsm) : (s.setFsm a).draws = s.draws := rfl
@[simp] theorem State.setFsm_reg (a : Fsm) (r : Reg) : (s.setFsm a).reg r = s.reg r := rfl
@[simp] theorem State.setFsm_readByte (a : Fsm) (i : Nat) : (s.setFsm a).readByte i = s.readByte i := rfl
@[simp] theorem State.setFsm_pixel (a : Fsm) (x : Fin 64) (y : Fin 32) : (s.setFsm a).pixel x y = s.pixel x y := rfl
@[simp] theorem State.setFsm_keyDown (a : Fsm) (k : Fin 16) : (s.setFsm a).keyDown k = s.keyDown k := rfl

@[simp] theorem State.setDiag_cfg (a : DiagRecord) : (s.setDiag a).cfg = s.cfg := rfl
@[simp] theorem State.setDiag_mem (a : DiagRecord) : (s.setDiag a).mem = s.mem := rfl
@[simp] theorem State.setDiag_v (a : DiagRecord) : (s.setDiag a).v = s.v := rfl
@[simp] theorem State.setDiag_idx (a : DiagRecord) : (s.setDiag a).idx = s.idx := rfl
@[simp] theorem State.setDiag_pc (a : DiagRecord) : (s.setDiag a).pc = s.pc := rfl
@[simp] theorem State.setDiag_stack (a : DiagRecord) : (s.setDiag a).stack = s.stack := rfl
@[simp] theorem State.setDiag_sp (a : DiagRecord) : (s.setDiag a).sp = s.sp := rfl
@[simp] theorem State.setDiag_dt (a : DiagRecord) : (s.setDiag a).dt = s.dt := rfl
@[simp] theorem State.setDiag_st (a : DiagRecord) : (s.setDiag a).st = s.st := rfl
@[simp] theorem State.setDiag_fb (a : DiagRecord) : (s.setDiag a).fb = s.fb := rfl
@[simp] theorem State.setDiag_key (a : DiagRecord) : (s.setDiag a).key = s.key := rfl
@[simp] theorem State.setDiag_drawFlag (a : DiagRecord) : (s.setDiag a).drawFlag = s.drawFlag := rfl
@[simp] theorem State.setDiag_fsm (a : DiagRecord) : (s.setDiag a).fsm = s.fsm := rfl
@[simp] theorem State.setDiag_diag (a : DiagRecord) : (s.setDiag a).diag = a := rfl
@[simp] theorem State.setDiag_draws (a : DiagRecord) : (s.setDiag a).draws = s.draws := rfl
@[simp] theorem State.setDiag_reg (a : DiagRecord) (r : Reg) : (s.setDiag a).reg r = s.reg r := rfl
@[simp] theorem State.setDiag_readByte (a : DiagRecord) (i : Nat) : (s.setDiag a).readByte i = s.readByte i := rfl
@[simp] theorem State.setDiag_pixel (a : DiagRecord) (x : Fin 64) (y : Fin 32) : (s.setDiag a).pixel x y = s.pixel x y := rfl
@[simp] theorem State.setDiag_keyDown (a : DiagRecord) (k : Fin 16) : (s.setDiag a).keyDown k = s.keyDown k := rfl

@[simp] theorem State.setDraws_cfg (a : Nat) : (s.setDraws a).cfg = s.cfg := rfl
@[simp] theorem State.setDraws_mem (a : Nat) : (s.setDraws a).mem = s.mem := rfl
@[simp] theorem State.setDraws_v (a : Nat) : (s.setDraws a).v = s.v := rfl
@[simp] theorem State.setDraws_idx (a : Nat) : (s.setDraws a).idx = s.idx := rfl
@[simp] theorem State.setDraws_pc (a : Nat) : (s.setDraws a).pc = s.pc := rfl
@[simp] theorem State.setDraws_stack (a : Nat) : (s.setDraws a).stack = s.stack := rfl
@[simp] theorem State.setDraws_sp (a : Nat) : (s.setDraws a).sp = s.sp := rfl
@[simp] theorem State.setDraws_dt (a : Nat) : (s.setDraws a).dt = s.dt := rfl
@[simp] theorem State.setDraws_st (a : Nat) : (s.setDraws a).st = s.st := rfl
@[simp] theorem State.setDraws_fb (a : Nat) : (s.setDraws a).fb = s.fb := rfl
@[simp] theorem State.setDraws_key (a : Nat) : (s.setDraws a).key = s.key := rfl
@[simp] theorem State.setDraws_drawFlag (a : Nat) : (s.setDraws a).drawFlag = s.drawFlag := rfl
@[simp] theorem State.setDraws_fsm (a : Nat) : (s.setDraws a).fsm = s.fsm := rfl
@[simp] theorem State.setDraws_diag (a : Nat) : (s.setDraws a).diag = s.diag := rfl
@[simp] theorem State.setDraws_draws (a : Nat) : (s.setDraws a).draws = a := rfl
@[simp] theorem State.setDraws_reg (a : Nat) (r : Reg) : (s.setDraws a).reg r = s.reg r := rfl
@[simp] theorem State.setDraws_readByte (a : Nat) (i : Nat) : (s.setDraws a).readByte i = s.readByte i := rfl
@[simp] theorem State.setDraws_pixel (a : Nat) (x : Fin 64) (y : Fin 32) : (s.setDraws a).pixel x y = s.pixel x y := rfl
@[simp] theorem State.setDraws_keyDown (a : Nat) (k : Fin 16) : (s.setDraws a).keyDown k = s.keyDown k := rfl

/-- Writing a register: the register written reads as the byte written, every other as before. -/
theorem State.setReg_reg (x : Reg) (b : Byte) (r : Reg) :
    (s.setReg x b).reg r = if r = x then b else s.reg r := by
  simp only [State.reg, State.setReg, State.setV_v, Fin.getElem_fin, Vector.getElem_set]
  by_cases h : r = x
  · simp [h]
  · rw [if_neg (fun e => h (Fin.ext e.symm)), if_neg h]

@[simp] theorem State.setReg_reg_same (x : Reg) (b : Byte) : (s.setReg x b).reg x = b := by
  simp [State.setReg_reg]

theorem State.setReg_reg_other {x r : Reg} (b : Byte) (h : r ≠ x) : (s.setReg x b).reg r = s.reg r := by
  simp [State.setReg_reg, h]

@[simp] theorem State.setReg_cfg (x : Reg) (b : Byte) : (s.setReg x b).cfg = s.cfg := rfl
@[simp] theorem State.setReg_mem (x : Reg) (b : Byte) : (s.setReg x b).mem = s.mem := rfl
@[simp] theorem State.setReg_idx (x : Reg) (b : Byte) : (s.setReg x b).idx = s.idx := rfl
@[simp] theorem State.setReg_pc (x : Reg) (b : Byte) : (s.setReg x b).pc = s.pc := rfl
@[simp] theorem State.setReg_stack (x : Reg) (b : Byte) : (s.setReg x b).stack = s.stack := rfl
@[simp] theorem State.setReg_sp (x : Reg) (b : Byte) : (s.setReg x b).sp = s.sp := rfl
@[simp] theorem State.setReg_dt (x : Reg) (b : Byte) : (s.setReg x b).dt = s.dt := rfl
@[simp] theorem State.setReg_st (x : Reg) (b : Byte) : (s.setReg x b).st = s.st := rfl
@[simp] theorem State.setReg_fb (x : Reg) (b : Byte) : (s.setReg x b).fb = s.fb := rfl
@[simp] theorem State.setReg_key (x : Reg) (b : Byte) : (s.setReg x b).key = s.key := rfl
@[simp] theorem State.setReg_drawFlag (x : Reg) (b : Byte) : (s.setReg x b).drawFlag = s.drawFlag := rfl
@[simp] theorem State.setReg_fsm (x : Reg) (b : Byte) : (s.setReg x b).fsm = s.fsm := rfl
@[simp] theorem State.setReg_diag (x : Reg) (b : Byte) : (s.setReg x b).diag = s.diag := rfl
@[simp] theorem State.setReg_draws (x : Reg) (b : Byte) : (s.setReg x b).draws = s.draws := rfl
@[simp] theorem State.setReg_readByte (x : Reg) (b : Byte) (i : Nat) :
    (s.setReg x b).readByte i = s.readByte i := rfl
@[simp] theorem State.setReg_pixel (x : Reg) (b : Byte) (px : Fin 64) (py : Fin 32) :
    (s.setReg x b).pixel px py = s.pixel px py := rfl
@[simp] theorem State.setReg_keyDown (x : Reg) (b : Byte) (k : Fin 16) :
    (s.setReg x b).keyDown k = s.keyDown k := rfl

end Sys2Proof.Machine
end

