-- ==== Sys2Proof/Laws/Memory.lean ====
section
/-! SUPPORT. The laws of memory: a read after a write, the canonical form kept by every operation, and equal
contents being equal data. -/

namespace Sys2Proof.Machine

variable {c : Config} {m : Memory}

theorem Memory.lookup_insert (m : Memory) (a : Nat) (v : Byte) (b : Nat) :
    Memory.lookup (Memory.insert m a v) b = if b = a then some v else Memory.lookup m b := by
  induction m with
  | nil => simp [Memory.insert, Memory.lookup]
  | cons p m ih =>
    obtain ⟨k, w⟩ := p
    simp only [Memory.insert]
    split
    · simp only [Memory.lookup]
    · split
      · rename_i h
        subst h
        simp only [Memory.lookup]
        split <;> simp_all
      · simp only [Memory.lookup, ih]
        by_cases hb : b = k
        · have : ¬ b = a := by omega
          simp [hb]; omega
        · simp [hb]

/-- An address below the canonical form's start is not listed. -/
theorem Memory.lookup_below {lo b : Nat} (h : Memory.wfFrom c lo m = true) (hb : b < lo) :
    Memory.lookup m b = none := by
  induction m generalizing lo with
  | nil => rfl
  | cons p m ih =>
    obtain ⟨k, w⟩ := p
    simp only [Memory.wfFrom, Bool.and_eq_true, decide_eq_true_eq, bne_iff_ne] at h
    rw [Memory.lookup, if_neg (by omega), ih h.2 (by omega)]

theorem Memory.wfFrom_mono {lo lo' : Nat} (h : Memory.wfFrom c lo' m = true) (hl : lo ≤ lo') :
    Memory.wfFrom c lo m = true := by
  cases m with
  | nil => rfl
  | cons p m =>
    obtain ⟨k, w⟩ := p
    simp only [Memory.wfFrom, Bool.and_eq_true, decide_eq_true_eq, bne_iff_ne] at h ⊢
    exact ⟨⟨⟨by omega, h.1.1.2⟩, h.1.2⟩, h.2⟩

/-- Unlisting an address leaves every other one alone, whatever the memory. -/
theorem Memory.lookup_erase_other {a b : Nat} (hb : b ≠ a) :
    Memory.lookup (Memory.erase m a) b = Memory.lookup m b := by
  induction m with
  | nil => rfl
  | cons p m ih =>
    obtain ⟨k, w⟩ := p
    simp only [Memory.erase]
    split
    · rename_i hk
      subst hk
      rw [Memory.lookup, if_neg hb]
    · simp only [Memory.lookup, ih]

theorem Memory.lookup_erase {lo : Nat} (h : Memory.wfFrom c lo m = true) (a b : Nat) :
    Memory.lookup (Memory.erase m a) b = if b = a then none else Memory.lookup m b := by
  induction m generalizing lo with
  | nil => simp [Memory.erase, Memory.lookup]
  | cons p m ih =>
    obtain ⟨k, w⟩ := p
    simp only [Memory.wfFrom, Bool.and_eq_true, decide_eq_true_eq, bne_iff_ne] at h
    simp only [Memory.erase]
    split
    · rename_i hk
      subst hk
      by_cases hb : b = a
      · subst hb
        simp [Memory.lookup_below h.2 (Nat.lt_succ_self b)]
      · simp [Memory.lookup, hb]
    · rename_i hk
      simp only [Memory.lookup, ih h.2]
      by_cases hb : b = k
      · have : ¬ b = a := by omega
        simp [hb]; omega
      · simp [hb]

theorem Memory.wfFrom_insert {lo a : Nat} {v : Byte} (h : Memory.wfFrom c lo m = true) (hlo : lo ≤ a)
    (ha : a < memSize) (hv : v ≠ resetByte c a) : Memory.wfFrom c lo (Memory.insert m a v) = true := by
  induction m generalizing lo with
  | nil => simp [Memory.insert, Memory.wfFrom, hlo, ha, hv]
  | cons p m ih =>
    obtain ⟨k, w⟩ := p
    simp only [Memory.wfFrom, Bool.and_eq_true, decide_eq_true_eq, bne_iff_ne] at h
    obtain ⟨⟨⟨h1, h2⟩, h3⟩, h4⟩ := h
    simp only [Memory.insert]
    split
    · simp only [Memory.wfFrom, Bool.and_eq_true, decide_eq_true_eq, bne_iff_ne]
      exact ⟨⟨⟨hlo, ha⟩, hv⟩, ⟨⟨by omega, h2⟩, h3⟩, h4⟩
    · split
      · rename_i hk
        subst hk
        simp only [Memory.wfFrom, Bool.and_eq_true, decide_eq_true_eq, bne_iff_ne]
        exact ⟨⟨⟨hlo, ha⟩, hv⟩, h4⟩
      · simp only [Memory.wfFrom, Bool.and_eq_true, decide_eq_true_eq, bne_iff_ne]
        exact ⟨⟨⟨h1, h2⟩, h3⟩, ih h4 (by omega)⟩

theorem Memory.wfFrom_erase {lo a : Nat} (h : Memory.wfFrom c lo m = true) :
    Memory.wfFrom c lo (Memory.erase m a) = true := by
  induction m generalizing lo with
  | nil => rfl
  | cons p m ih =>
    obtain ⟨k, w⟩ := p
    simp only [Memory.wfFrom, Bool.and_eq_true, decide_eq_true_eq, bne_iff_ne] at h
    simp only [Memory.erase]
    split
    · exact Memory.wfFrom_mono h.2 (by omega)
    · simp only [Memory.wfFrom, Bool.and_eq_true, decide_eq_true_eq, bne_iff_ne]
      exact ⟨h.1, ih h.2⟩

/-- Every write keeps the canonical form. -/
theorem Memory.wf_write (h : Memory.wf c m = true) (a : Nat) (v : Byte) :
    Memory.wf c (Memory.write c m a v) = true := by
  simp only [Memory.write, Memory.wf]
  split
  · split
    · exact Memory.wfFrom_erase h
    · rename_i ha hv
      exact Memory.wfFrom_insert h (Nat.zero_le a) ha hv
  · exact h

/-- A read after a write: the byte written at its address, every other byte as before. -/
theorem Memory.read_write (h : Memory.wf c m = true) (a : Nat) (v : Byte) (b : Nat) :
    Memory.read c (Memory.write c m a v) b = if b = a ∧ a < memSize then v else Memory.read c m b := by
  simp only [Memory.write, Memory.read]
  by_cases ha : a < memSize
  · by_cases hv : v = resetByte c a
    · simp only [ha, hv, if_true, Memory.lookup_erase h]
      by_cases hb : b = a <;> simp [hb]
    · simp only [ha, hv, if_true, if_false, Memory.lookup_insert]
      by_cases hb : b = a <;> simp [hb]
  · simp [ha]

/-- A write leaves every other address alone, whatever the memory. -/
theorem Memory.read_write_other {a b : Nat} (v : Byte) (hb : b ≠ a) :
    Memory.read c (Memory.write c m a v) b = Memory.read c m b := by
  simp only [Memory.write, Memory.read]
  split
  · split
    · rw [Memory.lookup_erase_other hb]
    · rw [Memory.lookup_insert, if_neg hb]
  · rfl

/-- What an address at or above the form's start reads as, from a memory in canonical form, decides whether it
is listed. -/
theorem Memory.read_eq_resetByte_iff {lo a : Nat} (h : Memory.wfFrom c lo m = true) :
    Memory.read c m a = resetByte c a ↔ Memory.lookup m a = none := by
  induction m generalizing lo with
  | nil => simp [Memory.read, Memory.lookup]
  | cons p m ih =>
    obtain ⟨k, w⟩ := p
    simp only [Memory.wfFrom, Bool.and_eq_true, decide_eq_true_eq, bne_iff_ne] at h
    simp only [Memory.read, Memory.lookup]
    by_cases ha : a = k
    · subst ha
      simp [h.1.2]
    · simpa [ha, Memory.read] using ih h.2

theorem Memory.ext_wfFrom {lo : Nat} {m' : Memory} (h : Memory.wfFrom c lo m = true)
    (h' : Memory.wfFrom c lo m' = true) (hr : ∀ a, Memory.lookup m a = Memory.lookup m' a) : m = m' := by
  induction m generalizing lo m' with
  | nil =>
    cases m' with
    | nil => rfl
    | cons p m' =>
      obtain ⟨k, w⟩ := p
      have := hr k
      simp [Memory.lookup] at this
  | cons p m ih =>
    obtain ⟨k, w⟩ := p
    cases m' with
    | nil =>
      have := hr k
      simp [Memory.lookup] at this
    | cons p' m' =>
      obtain ⟨k', w'⟩ := p'
      simp only [Memory.wfFrom, Bool.and_eq_true, decide_eq_true_eq, bne_iff_ne] at h h'
      have hk : k = k' := by
        rcases Nat.lt_trichotomy k k' with hlt | heq | hgt
        · have := hr k
          rw [Memory.lookup, if_pos rfl, Memory.lookup, if_neg (by omega),
            Memory.lookup_below h'.2 (by omega)] at this
          cases this
        · exact heq
        · have := hr k'
          rw [Memory.lookup, if_neg (by omega), Memory.lookup_below h.2 (by omega), Memory.lookup,
            if_pos rfl] at this
          cases this
      subst hk
      have hw : w = w' := by
        have := hr k
        simpa [Memory.lookup] using this
      subst hw
      congr 1
      refine ih h.2 h'.2 fun a => ?_
      by_cases ha : a = k
      · subst ha
        rw [Memory.lookup_below h.2 (Nat.lt_succ_self a), Memory.lookup_below h'.2 (Nat.lt_succ_self a)]
      · have := hr a
        simpa [Memory.lookup, ha] using this

/-- Equal contents are equal data: two memories in canonical form that read alike at every address are the same
list. -/
theorem Memory.ext_of_read {m' : Memory} (h : Memory.wf c m = true) (h' : Memory.wf c m' = true)
    (hr : ∀ a, Memory.read c m a = Memory.read c m' a) : m = m' := by
  refine Memory.ext_wfFrom h h' fun a => ?_
  by_cases hn : Memory.lookup m a = none
  · have h1 := (Memory.read_eq_resetByte_iff h).mpr hn
    have h2 := (Memory.read_eq_resetByte_iff h').mp ((hr a).symm.trans h1)
    rw [hn, h2]
  · have hn' : Memory.lookup m' a ≠ none := fun e =>
      hn ((Memory.read_eq_resetByte_iff h).mp ((hr a).trans ((Memory.read_eq_resetByte_iff h').mpr e)))
    have := hr a
    simp only [Memory.read] at this
    cases h1 : Memory.lookup m a <;> cases h2 : Memory.lookup m' a <;> simp_all

/-- Writing what an address already holds changes nothing. -/
theorem Memory.write_read_self (h : Memory.wf c m = true) (a : Nat) :
    Memory.write c m a (Memory.read c m a) = m := by
  refine Memory.ext_of_read (Memory.wf_write h a _) h fun b => ?_
  rw [Memory.read_write h]
  split
  · rename_i hb
    rw [hb.1]
  · rfl

section State
variable {s : State}

@[simp] theorem State.writeByte_cfg (a : Nat) (v : Byte) : (s.writeByte a v).cfg = s.cfg := rfl

/-- The state after a byte write differs in memory alone. -/
theorem State.writeByte_eq (s : State) (a : Nat) (v : Byte) :
    s.writeByte a v = s.setMem (s.writeByte a v).mem := rfl

theorem State.writeByte_wf (h : Memory.wf s.cfg s.mem = true) (a : Nat) (v : Byte) :
    Memory.wf (s.writeByte a v).cfg (s.writeByte a v).mem = true := Memory.wf_write h a v

theorem State.readByte_writeByte (h : Memory.wf s.cfg s.mem = true) (a : Nat) (v : Byte) (b : Nat) :
    (s.writeByte a v).readByte b = if b = a ∧ a < memSize then v else s.readByte b :=
  Memory.read_write h a v b

/-- The state after a write of bytes differs in memory alone. -/
theorem State.writeBytes_eq (s : State) (a : Nat) (bs : List Byte) :
    s.writeBytes a bs = s.setMem (s.writeBytes a bs).mem := by
  induction bs generalizing s a with
  | nil => rfl
  | cons b bs ih =>
    simp only [State.writeBytes]
    rw [ih (s.writeByte a b) (a + 1)]
    rfl

@[simp] theorem State.writeBytes_cfg (s : State) (a : Nat) (bs : List Byte) : (s.writeBytes a bs).cfg = s.cfg := by
  rw [State.writeBytes_eq]
  rfl

theorem State.writeBytes_wf (h : Memory.wf s.cfg s.mem = true) (a : Nat) (bs : List Byte) :
    Memory.wf (s.writeBytes a bs).cfg (s.writeBytes a bs).mem = true := by
  induction bs generalizing s a with
  | nil => exact h
  | cons b bs ih => exact ih (State.writeByte_wf h a b) (a + 1)

/-- A read after a write of bytes that all lie in memory: the byte of the list, every other byte as before. -/
theorem State.readByte_writeBytes (h : Memory.wf s.cfg s.mem = true) (a : Nat) (bs : List Byte) (b : Nat)
    (ha : a + bs.length ≤ memSize) :
    (s.writeBytes a bs).readByte b =
      if a ≤ b ∧ b < a + bs.length then bs.getD (b - a) 0 else s.readByte b := by
  induction bs generalizing s a with
  | nil => simp [State.writeBytes]
  | cons v bs ih =>
    simp only [State.writeBytes, List.length_cons] at ha ⊢
    rw [ih (State.writeByte_wf h a v) (a + 1) (by omega), State.readByte_writeByte h]
    by_cases hb : b = a
    · subst hb
      rw [if_neg (by omega), if_pos ⟨rfl, by omega⟩, if_pos (by omega)]
      simp
    · by_cases hin : a + 1 ≤ b ∧ b < a + 1 + bs.length
      · rw [if_pos hin, if_pos (by omega)]
        obtain ⟨d, rfl⟩ : ∃ d, b = a + 1 + d := ⟨b - (a + 1), by omega⟩
        have e1 : a + 1 + d - (a + 1) = d := by omega
        have e2 : a + 1 + d - a = d + 1 := by omega
        simp [e1, e2]
      · rw [if_neg hin, if_neg (by omega), if_neg (by omega)]

/-- A write of bytes leaves every address outside them alone, whatever the memory. -/
theorem State.readByte_writeBytes_other (s : State) (a : Nat) (bs : List Byte) (b : Nat)
    (hb : b < a ∨ a + bs.length ≤ b) : (s.writeBytes a bs).readByte b = s.readByte b := by
  induction bs generalizing s a with
  | nil => rfl
  | cons v bs ih =>
    simp only [List.length_cons] at hb
    rw [State.writeBytes, ih (s.writeByte a v) (a + 1) (by omega)]
    exact Memory.read_write_other v (by omega)

@[simp] theorem State.length_readBytes (s : State) (a n : Nat) : (s.readBytes a n).length = n := by
  induction n generalizing a with
  | zero => rfl
  | succ n ih => simp [State.readBytes, ih]

theorem State.getD_readBytes (s : State) (a n i : Nat) (h : i < n) :
    (s.readBytes a n).getD i 0 = s.readByte (a + i) := by
  induction n generalizing a i with
  | zero => omega
  | succ n ih =>
    cases i with
    | zero => rfl
    | succ i =>
      have := ih (a + 1) i (by omega)
      simp only [State.readBytes, List.getD_cons_succ, this]
      congr 1
      omega

/-- Writing back the bytes that stand there changes nothing. -/
theorem State.writeBytes_readBytes (h : Memory.wf s.cfg s.mem = true) (a n : Nat) :
    s.writeBytes a (s.readBytes a n) = s := by
  induction n generalizing a with
  | zero => rfl
  | succ n ih =>
    have : s.writeByte a (s.readByte a) = s := by
      simp only [State.writeByte, State.readByte, Memory.write_read_self h, State.setMem]
    simp only [State.readBytes, State.writeBytes, this, ih (a + 1)]

end State

end Sys2Proof.Machine
end

