-- ==== Sys2Proof/Laws/Ops.lean ====
section
/-! SUPPORT. For each shared operation, once, everything it can do. -/

namespace Sys2Proof.Machine

variable (s : State)

/-- Result then flag: `VF` holds the flag whatever `x` is, `V[x]` the result unless `x` = 15, every other
register what it held. -/
theorem State.setRegFlag_reg (x : Reg) (result flag : Byte) (r : Reg) :
    (s.setRegFlag x result flag).reg r = if r = vF then flag else if r = x then result else s.reg r := by
  simp only [State.setRegFlag, State.setReg_reg]

/-- Result and flag are register writes alone. -/
theorem State.setRegFlag_eq (x : Reg) (result flag : Byte) :
    s.setRegFlag x result flag = s.setV (s.setRegFlag x result flag).v := rfl

/-- A push answers a state exactly when fewer than 16 entries are pushed: entry `sp` holds the address, `sp` is one
more, and nothing else differs. -/
theorem State.push?_eq_some {w : Word} {t : State} :
    s.push? w = some t ↔
      ∃ h : s.sp.val < 16,
        t = (s.setStack (s.stack.set s.sp.val w)).setSp ⟨s.sp.val + 1, by omega⟩ := by
  unfold State.push?
  split <;> rename_i h
  · simp [h, eq_comm]
  · simp [h]

theorem State.push?_eq_none {w : Word} : s.push? w = none ↔ s.sp.val = 16 := by
  unfold State.push?
  have := s.sp.isLt
  split <;> simp <;> omega

/-- A pop answers exactly when the stack is not empty: the entry below `sp`, and a state with `sp` one less. -/
theorem State.pop?_eq_some {w : Word} {t : State} :
    s.pop? = some (w, t) ↔
      ∃ h : 0 < s.sp.val,
        w = s.stack[s.sp.val - 1]'(by omega) ∧ t = s.setSp ⟨s.sp.val - 1, by omega⟩ := by
  unfold State.pop?
  split <;> rename_i h
  · simp [h, eq_comm]
  · simp [h]

theorem State.pop?_eq_none : s.pop? = none ↔ s.sp.val = 0 := by
  unfold State.pop?
  split <;> simp <;> omega

/-- A skip writes the program counter alone. -/
theorem State.skipIf_eq (c : Bool) : s.skipIf c = s.setPc (if c then s.pc + 2 else s.pc) := by
  cases c <;> rfl

/-- A diagnostic writes the record alone. -/
theorem State.raise_eq (d : Diag) (pc opcode : Word) :
    s.raise d pc opcode = s.setDiag { valid := true, code := d, pc := pc, opcode := opcode } := rfl

theorem State.raiseAt_eq (d : Diag) (i : Instr) :
    s.raiseAt d i = s.setDiag { valid := true, code := d, pc := s.pc - 2, opcode := encode i } := rfl

/-- A conditional halt writes the FSM alone. -/
theorem State.haltIf_eq (c : Bool) : s.haltIf c = s.setFsm (if c then .halted else s.fsm) := by
  cases c <;> rfl

theorem State.inBounds_iff (n : Nat) : s.inBounds n = true ↔ s.idx.toNat + n ≤ 4096 := by
  exact decide_eq_true_iff

@[simp] theorem State.length_regsUpTo (x : Reg) : (s.regsUpTo x).length = x.val + 1 := by
  simp only [State.regsUpTo, List.length_take, Vector.length_toList]
  omega

/-- Entry `i` of the register range is `V[i]`. -/
theorem State.getD_regsUpTo (x r : Reg) (h : r ≤ x) : (s.regsUpTo x).getD r.val 0 = s.reg r := by
  have : r.val < x.val + 1 := Nat.lt_succ_of_le h
  simp [State.regsUpTo, State.reg, List.getD_eq_getElem?_getD, this]

/-- The register load: registers up to `x` from memory, the others as before. -/
theorem State.loadUpTo_reg (x r : Reg) :
    (s.loadUpTo x).reg r = if r ≤ x then s.readByte (s.idx.toNat + r.val) else s.reg r := by
  simp [State.loadUpTo, State.reg, State.indexed]

theorem State.loadUpTo_eq (x : Reg) : s.loadUpTo x = s.setV (s.loadUpTo x).v := rfl

/-- A key index is the register's value when that is below 16. -/
theorem keyIndex?_eq_some {b : Byte} {k : Fin 16} : keyIndex? b = some k ↔ b.toNat = k.val := by
  unfold keyIndex?
  have := k.isLt
  split
  · simp [Fin.ext_iff]
  · simp
    omega

theorem keyIndex?_eq_none {b : Byte} : keyIndex? b = none ↔ 15 < b.toNat := by
  unfold keyIndex?
  split
  · simp; omega
  · simp; omega

theorem State.lowestKeyFrom_none (k fuel : Nat) :
    s.lowestKeyFrom k fuel = none ↔ ∀ j, k ≤ j → j < k + fuel → s.key.getLsbD j = false := by
  induction fuel generalizing k with
  | zero => simp [State.lowestKeyFrom]; omega
  | succ fuel ih =>
    simp only [State.lowestKeyFrom]
    split
    · rename_i h
      simp only [reduceCtorEq, false_iff, not_forall]
      exact ⟨k, Nat.le_refl k, by omega, by simp [h]⟩
    · rename_i h
      rw [ih (k + 1)]
      constructor
      · intro hall j h1 h2
        rcases Nat.eq_or_lt_of_le h1 with rfl | hlt
        · simpa using h
        · exact hall j hlt (by omega)
      · intro hall j h1 h2
        exact hall j (by omega) (by omega)

theorem State.lowestKeyFrom_some {k fuel : Nat} {b : Byte} (h : s.lowestKeyFrom k fuel = some b) :
    ∃ j, k ≤ j ∧ j < k + fuel ∧ b = BitVec.ofNat 8 j ∧ s.key.getLsbD j = true ∧
      ∀ i, k ≤ i → i < j → s.key.getLsbD i = false := by
  induction fuel generalizing k with
  | zero => simp [State.lowestKeyFrom] at h
  | succ fuel ih =>
    simp only [State.lowestKeyFrom] at h
    split at h
    · rename_i hk
      exact ⟨k, Nat.le_refl k, by omega, by simpa using h.symm, hk, by omega⟩
    · rename_i hk
      obtain ⟨j, h1, h2, h3, h4, h5⟩ := ih h
      refine ⟨j, by omega, by omega, h3, h4, fun i hi hij => ?_⟩
      rcases Nat.eq_or_lt_of_le hi with rfl | hlt
      · simpa using hk
      · exact h5 i hlt hij

/-- No lowest key exactly when no key is pressed. -/
theorem State.lowestKey?_eq_none : s.lowestKey? = none ↔ ∀ k : Fin 16, s.keyDown k = false := by
  rw [State.lowestKey?, State.lowestKeyFrom_none]
  exact ⟨fun h k => h k.val (Nat.zero_le _) (by have := k.isLt; omega),
    fun h j _ hj => h ⟨j, by omega⟩⟩

/-- The lowest key is pressed, and no lower key is. -/
theorem State.lowestKey?_eq_some {k : Fin 16} (hk : s.keyDown k = true)
    (hlow : ∀ j : Fin 16, j < k → s.keyDown j = false) :
    s.lowestKey? = some (BitVec.ofNat 8 k.val) := by
  cases h : s.lowestKey? with
  | none => exact absurd hk (by simp [(State.lowestKey?_eq_none s).mp h k])
  | some b =>
    obtain ⟨j, -, h2, rfl, h4, h5⟩ := State.lowestKeyFrom_some s h
    have : j = k.val := by
      rcases Nat.lt_trichotomy j k.val with hlt | heq | hgt
      · have := hlow ⟨j, by omega⟩ hlt
        simp only [State.keyDown] at this
        simp [this] at h4
      · exact heq
      · have := h5 k.val (Nat.zero_le _) hgt
        rw [State.keyDown, this] at hk
        cases hk
    rw [this]

/-- A counter goes down by one and stays at 0. -/
@[simp] theorem toNat_countDown (b : Byte) : (countDown b).toNat = b.toNat - 1 := by
  have := b.isLt
  unfold countDown
  split
  · rw [BitVec.toNat_ofNat, Nat.mod_eq_of_lt (by omega)]
  · omega

/-- A tick writes the two timers alone. -/
theorem State.tick_eq : s.tick = (s.setDt (countDown s.dt)).setSt (countDown s.st) := rfl

/-- The end of a cycle: a tick unless the cycle halted. -/
theorem State.endCycle_eq : s.endCycle = if s.fsm = .ready then s.tick else s := by
  unfold State.endCycle
  cases h : s.fsm <;> simp

/-- Flipping a pixel of a framebuffer inverts that pixel and no other. -/
theorem Framebuffer.pixel_flip (f : Framebuffer) (x px : Fin 64) (y py : Fin 32) :
    Framebuffer.pixel (Framebuffer.flip f x y) px py =
      (Framebuffer.pixel f px py != (decide (px = x) && decide (py = y))) := by
  have hpx := px.isLt
  simp only [Framebuffer.pixel, Framebuffer.flip, Fin.getElem_fin, Vector.getElem_set]
  by_cases hy : py = y
  · subst hy
    simp only [if_true, BitVec.getLsbD_xor, BitVec.getLsbD_twoPow]
    by_cases hx : px = x
    · simp [hx, x.isLt]
    · have : ¬ x.val = px.val := fun e => hx (Fin.ext e.symm)
      simp [hx, this]
  · have : ¬ y.val = py.val := fun e => hy (Fin.ext e.symm)
    simp [hy, this]

end Sys2Proof.Machine
end

