-- ==== Sys2Proof/Laws/Cycle.lean ====
section
/-! SUPPORT. What one step can do, said once: four cases, each with the state it leaves, and what each phase of a
cycle leaves alone. -/

namespace Sys2Proof.Machine

variable {s t : State} {i : Instr}

section Phases
variable (s)

/-- The state of the execute phase differs from the state before the cycle in the record's valid bit and in `PC`. -/
theorem State.fetched_eq :
    s.fetched = (s.setDiag { s.diag with valid := false }).setPc (s.pc + 2) := rfl

@[simp] theorem State.fetched_cfg : s.fetched.cfg = s.cfg := rfl
@[simp] theorem State.fetched_mem : s.fetched.mem = s.mem := rfl
@[simp] theorem State.fetched_v : s.fetched.v = s.v := rfl
@[simp] theorem State.fetched_idx : s.fetched.idx = s.idx := rfl
@[simp] theorem State.fetched_pc : s.fetched.pc = s.pc + 2 := rfl
@[simp] theorem State.fetched_stack : s.fetched.stack = s.stack := rfl
@[simp] theorem State.fetched_sp : s.fetched.sp = s.sp := rfl
@[simp] theorem State.fetched_dt : s.fetched.dt = s.dt := rfl
@[simp] theorem State.fetched_st : s.fetched.st = s.st := rfl
@[simp] theorem State.fetched_fb : s.fetched.fb = s.fb := rfl
@[simp] theorem State.fetched_key : s.fetched.key = s.key := rfl
@[simp] theorem State.fetched_drawFlag : s.fetched.drawFlag = s.drawFlag := rfl
@[simp] theorem State.fetched_fsm : s.fetched.fsm = s.fsm := rfl
@[simp] theorem State.fetched_diag : s.fetched.diag = { s.diag with valid := false } := rfl
@[simp] theorem State.fetched_draws : s.fetched.draws = s.draws := rfl
@[simp] theorem State.fetched_reg (r : Reg) : s.fetched.reg r = s.reg r := rfl
@[simp] theorem State.fetched_readByte (a : Nat) : s.fetched.readByte a = s.readByte a := rfl

/-- The instruction's own address, seen from its execute phase. -/
theorem State.fetched_pc_sub : s.fetched.pc - 2 = s.pc := by simp

/-- Below the fetch guard the post-fetch `PC` does not wrap. -/
theorem State.toNat_fetched_pc (h : s.pc.toNat < 4095) : s.fetched.pc.toNat = s.pc.toNat + 2 := by
  simp
  omega

/-- A guarded cycle: the record and the tick. -/
theorem State.guardedCycle_eq :
    s.guardedCycle =
      ((s.setDiag { valid := true, code := .fetchOutOfBounds, pc := s.pc, opcode := 0 }).setDt
        (countDown s.dt)).setSt (countDown s.st) := rfl

/-- A cycle without a handler: the record, `PC` advanced, and the tick. -/
theorem State.unknownCycle_eq (op : Word) :
    s.unknownCycle op =
      (((s.setPc (s.pc + 2)).setDiag { valid := true, code := .unknownOpcode, pc := s.pc, opcode := op }).setDt
        (countDown s.dt)).setSt (countDown s.st) := by
  simp only [State.unknownCycle, State.fetched_pc_sub]
  rfl

/-- The end of a cycle writes at most the two timers. -/
theorem State.endCycle_eq_setTimers :
    s.endCycle = (s.setDt (if s.fsm = .ready then countDown s.dt else s.dt)).setSt
      (if s.fsm = .ready then countDown s.st else s.st) := by
  rw [State.endCycle_eq]
  split <;> rfl

@[simp] theorem State.endCycle_fsm : s.endCycle.fsm = s.fsm := by
  rw [State.endCycle_eq_setTimers]
  rfl

@[simp] theorem State.endCycle_diag : s.endCycle.diag = s.diag := by
  rw [State.endCycle_eq_setTimers]
  rfl

@[simp] theorem State.endCycle_pc : s.endCycle.pc = s.pc := by
  rw [State.endCycle_eq_setTimers]
  rfl

@[simp] theorem State.endCycle_stack : s.endCycle.stack = s.stack := by
  rw [State.endCycle_eq_setTimers]
  rfl

@[simp] theorem State.endCycle_drawFlag : s.endCycle.drawFlag = s.drawFlag := by
  rw [State.endCycle_eq_setTimers]
  rfl

@[simp] theorem State.endCycle_reg (r : Reg) : s.endCycle.reg r = s.reg r := by
  rw [State.endCycle_eq_setTimers]
  rfl

end Phases

/-- A HALTED core keeps its state. -/
theorem step_halted (h : s.fsm = .halted) : step s = .next s := by
  simp only [step, cycle, h]

/-- A READY core whose `PC` the fetch guard holds. -/
theorem step_guarded (h : s.fsm = .ready) (hp : 4095 ≤ s.pc.toNat) : step s = .next s.guardedCycle := by
  simp [step, cycle, h, State.fetchBlocked, hp]

/-- A READY core whose word has no handler. -/
theorem step_unknown {r : DecodeReject} (h : s.fsm = .ready) (hp : s.pc.toNat < 4095)
    (hd : decodeWord s.fetchWord = .error r) : step s = .next (s.unknownCycle s.fetchWord) := by
  simp [step, cycle, h, State.fetchBlocked, Nat.not_le.mpr hp, State.openCycle, hd]

/-- A READY core whose word decodes. -/
theorem step_decoded (h : s.fsm = .ready) (hp : s.pc.toNat < 4095)
    (hd : decodeWord s.fetchWord = .ok i) : step s = runInstr i s.fetched := by
  simp [step, cycle, h, State.fetchBlocked, Nat.not_le.mpr hp, State.openCycle, hd]

/-- A run of an instruction answers the end of the cycle after its execute phase. -/
theorem runInstr_eq_next {u : State} : runInstr i s = .next u ↔ ∃ t, exec i s = .next t ∧ u = t.endCycle := by
  unfold runInstr
  cases exec i s <;> simp [eq_comm]

/-- Everything a step of a READY core can do. -/
theorem step_cases (hf : s.fsm = .ready) (h : step s = .next t) :
    (4095 ≤ s.pc.toNat ∧ t = s.guardedCycle) ∨
    (s.pc.toNat < 4095 ∧ (∃ r, decodeWord s.fetchWord = .error r) ∧ t = s.unknownCycle s.fetchWord) ∨
    (s.pc.toNat < 4095 ∧ ∃ i u, decodeWord s.fetchWord = .ok i ∧ exec i s.fetched = .next u ∧
      t = u.endCycle) := by
  by_cases hp : s.pc.toNat < 4095
  · right
    cases hd : decodeWord s.fetchWord with
    | error r =>
      rw [step_unknown hf hp hd] at h
      cases h
      exact .inl ⟨hp, ⟨r, rfl⟩, rfl⟩
    | ok i =>
      rw [step_decoded hf hp hd, runInstr_eq_next] at h
      obtain ⟨u, hu, rfl⟩ := h
      exact .inr ⟨hp, i, u, rfl, hu, rfl⟩
  · rw [step_guarded hf (by omega)] at h
    cases h
    exact .inl ⟨by omega, rfl⟩

end Sys2Proof.Machine
end

