-- ==== Sys2Proof/Laws/Decode.lean ====
section
/-! SUPPORT. What each field of an assembled word is, and what the four fields of a word assemble to. -/

namespace Sys2Proof

variable {g : Nat} (hg : g < 16)

include hg in
@[simp] theorem toNat_addrWord (nnn : BitVec 12) : (addrWord g nnn).toNat = g * 0x1000 + nnn.toNat := by
  have := nnn.isLt
  rw [addrWord, BitVec.toNat_ofNat, Nat.mod_eq_of_lt (by omega)]

include hg in
@[simp] theorem toNat_regByteWord (x : Reg) (kk : Byte) :
    (regByteWord g x kk).toNat = g * 0x1000 + x.val * 0x100 + kk.toNat := by
  have := kk.isLt
  have := x.isLt
  rw [regByteWord, BitVec.toNat_ofNat, Nat.mod_eq_of_lt (by omega)]

include hg in
@[simp] theorem toNat_regRegWord (x y : Reg) (n : BitVec 4) :
    (regRegWord g x y n).toNat = g * 0x1000 + x.val * 0x100 + y.val * 0x10 + n.toNat := by
  have := n.isLt
  have := x.isLt
  have := y.isLt
  rw [regRegWord, BitVec.toNat_ofNat, Nat.mod_eq_of_lt (by omega)]

@[simp] theorem toNat_noneWord (ign : BitVec 4) (kk : Byte) :
    (noneWord ign kk).toNat = ign.toNat * 0x100 + kk.toNat := by
  have := kk.isLt
  have := ign.isLt
  rw [noneWord, BitVec.toNat_ofNat, Nat.mod_eq_of_lt (by omega)]

section Fields
variable {op : Word}

/-- A field of a word is known as soon as the word's value is written with it in its place. -/
theorem groupOf_eq {rest : Nat} (h : op.toNat = g * 0x1000 + rest) (hr : rest < 0x1000) :
    groupOf op = g := by
  rw [groupOf, h]
  omega

theorem nnnOf_eq {nnn : BitVec 12} (h : op.toNat = g * 0x1000 + nnn.toNat) : nnnOf op = nnn := by
  have := nnn.isLt
  refine BitVec.eq_of_toNat_eq ?_
  rw [nnnOf, BitVec.toNat_ofNat, h]
  omega

theorem xOf_eq {x : Reg} {rest : Nat} (h : op.toNat = g * 0x1000 + x.val * 0x100 + rest)
    (hr : rest < 0x100) : xOf op = x := by
  have := x.isLt
  refine Fin.ext ?_
  rw [xOf, Fin.val_ofNat, h]
  omega

theorem yOf_eq {x y : Reg} {rest : Nat} (h : op.toNat = g * 0x1000 + x.val * 0x100 + y.val * 0x10 + rest)
    (hr : rest < 0x10) : yOf op = y := by
  have := x.isLt
  have := y.isLt
  refine Fin.ext ?_
  rw [yOf, Fin.val_ofNat, h]
  omega

end Fields

section Formats

include hg in
/-- The fields of a word of format `addr` (R102). -/
theorem fields_addrWord (nnn : BitVec 12) :
    groupOf (addrWord g nnn) = g ∧ nnnOf (addrWord g nnn) = nnn ∧
      kkOf (addrWord g nnn) = BitVec.ofNat 8 nnn.toNat := by
  have h := toNat_addrWord hg nnn
  have hn := nnn.isLt
  generalize addrWord g nnn = op at h
  refine ⟨groupOf_eq h (by omega), nnnOf_eq h, BitVec.eq_of_toNat_eq ?_⟩
  rw [kkOf, BitVec.toNat_ofNat, BitVec.toNat_ofNat, h]
  omega

include hg in
/-- The fields of a word of format `reg_byte` (R102). -/
theorem fields_regByteWord (x : Reg) (kk : Byte) :
    groupOf (regByteWord g x kk) = g ∧ xOf (regByteWord g x kk) = x ∧
      kkOf (regByteWord g x kk) = kk := by
  have h := toNat_regByteWord hg x kk
  have hk := kk.isLt
  have hx := x.isLt
  generalize regByteWord g x kk = op at h
  refine ⟨?_, xOf_eq h (by omega), ?_⟩
  · rw [groupOf, h]
    omega
  · refine BitVec.eq_of_toNat_eq ?_
    rw [kkOf, BitVec.toNat_ofNat, h]
    omega

include hg in
/-- The fields of a word of format `reg_reg` or `reg_reg_nib` (R102). -/
theorem fields_regRegWord (x y : Reg) (n : BitVec 4) :
    groupOf (regRegWord g x y n) = g ∧ xOf (regRegWord g x y n) = x ∧
      yOf (regRegWord g x y n) = y ∧ nOf (regRegWord g x y n) = n := by
  have h := toNat_regRegWord hg x y n
  have hn := n.isLt
  have hx := x.isLt
  have hy := y.isLt
  generalize regRegWord g x y n = op at h
  refine ⟨?_, Fin.ext ?_, yOf_eq h (by omega), BitVec.eq_of_toNat_eq ?_⟩
  · rw [groupOf, h]
    omega
  · rw [xOf, Fin.val_ofNat, h]
    omega
  · rw [nOf, BitVec.toNat_ofNat, h]
    omega

/-- The fields of a word of format `none` (R102). -/
theorem fields_noneWord (ign : BitVec 4) (kk : Byte) :
    groupOf (noneWord ign kk) = 0 ∧ ignOf (noneWord ign kk) = ign ∧ kkOf (noneWord ign kk) = kk := by
  have h := toNat_noneWord ign kk
  have hk := kk.isLt
  have hi := ign.isLt
  generalize noneWord ign kk = op at h
  refine ⟨?_, BitVec.eq_of_toNat_eq ?_, BitVec.eq_of_toNat_eq ?_⟩
  · rw [groupOf, h]
    omega
  · rw [ignOf, BitVec.toNat_ofNat, h]
    omega
  · rw [kkOf, BitVec.toNat_ofNat, h]
    omega

theorem groupOf_lt (op : Word) : groupOf op < 16 := by
  have := op.isLt
  rw [groupOf]
  omega

/-- A word is what its fields assemble to, in each of the formats. -/
theorem addrWord_fields (op : Word) : addrWord (groupOf op) (nnnOf op) = op := by
  have := op.isLt
  refine BitVec.eq_of_toNat_eq ?_
  rw [toNat_addrWord (groupOf_lt op), groupOf, nnnOf, BitVec.toNat_ofNat]
  omega

theorem regByteWord_fields (op : Word) : regByteWord (groupOf op) (xOf op) (kkOf op) = op := by
  have := op.isLt
  refine BitVec.eq_of_toNat_eq ?_
  rw [toNat_regByteWord (groupOf_lt op), groupOf, xOf, kkOf, BitVec.toNat_ofNat, Fin.val_ofNat]
  omega

theorem regRegWord_fields (op : Word) : regRegWord (groupOf op) (xOf op) (yOf op) (nOf op) = op := by
  have := op.isLt
  refine BitVec.eq_of_toNat_eq ?_
  rw [toNat_regRegWord (groupOf_lt op), groupOf, xOf, yOf, nOf, BitVec.toNat_ofNat, Fin.val_ofNat,
    Fin.val_ofNat]
  omega

theorem noneWord_fields (op : Word) (h : groupOf op = 0) : noneWord (ignOf op) (kkOf op) = op := by
  have := op.isLt
  rw [groupOf] at h
  refine BitVec.eq_of_toNat_eq ?_
  rw [toNat_noneWord, ignOf, kkOf, BitVec.toNat_ofNat, BitVec.toNat_ofNat]
  omega

end Formats

/-- The two bytes of a word, put together, are the word. -/
@[simp] theorem wordOfBytes_bytes (op : Word) : wordOfBytes (highByte op) (lowByte op) = op := by
  have := op.isLt
  refine BitVec.eq_of_toNat_eq ?_
  simp only [wordOfBytes, highByte, lowByte, BitVec.toNat_ofNat]
  omega

@[simp] theorem highByte_wordOfBytes (hi lo : Byte) : highByte (wordOfBytes hi lo) = hi := by
  have := hi.isLt
  have := lo.isLt
  refine BitVec.eq_of_toNat_eq ?_
  simp only [wordOfBytes, highByte, BitVec.toNat_ofNat]
  omega

@[simp] theorem lowByte_wordOfBytes (hi lo : Byte) : lowByte (wordOfBytes hi lo) = lo := by
  have := hi.isLt
  have := lo.isLt
  refine BitVec.eq_of_toNat_eq ?_
  simp only [wordOfBytes, lowByte, BitVec.toNat_ofNat]
  omega

end Sys2Proof
end

