-- ==== Sys2Proof/Laws/Display.lean ====
section
/-! SUPPORT. The compositor: what one sprite bit, one row and a whole sprite do to a pixel and to the collision.
Every sprite bit meets its own pixel, so the order of the loops does not show. -/

namespace Sys2Proof.Machine

/-- Two columns of a sprite byte never fall on one pixel column. -/
theorem spriteColumn_inj {cx : Byte} {c d : Nat} (hc : c < 8) (hd : d < 8)
    (h : spriteColumn cx c = spriteColumn cx d) : c = d := by
  simp only [spriteColumn, Fin.ext_iff, Fin.val_ofNat] at h
  omega

/-- Two rows less than 32 apart never fall on one pixel row. -/
theorem spriteRow_ne {cy : Byte} {r k : Nat} (hk : 0 < k) (hk' : k < 32) :
    spriteRow cy (r + k) ≠ spriteRow cy r := by
  simp only [spriteRow, ne_eq, Fin.ext_iff, Fin.val_ofNat]
  omega

/-- A framebuffer is its pixels. -/
theorem Framebuffer.ext_pixel {f g : Framebuffer}
    (h : ∀ x y, Framebuffer.pixel f x y = Framebuffer.pixel g x y) : f = g := by
  refine Vector.ext fun y hy => BitVec.eq_of_getLsbD_eq fun x hx => ?_
  exact h ⟨x, hx⟩ ⟨y, hy⟩

/-- A set sprite bit flips its pixel and notes whether it was set; a clear one does nothing. -/
theorem drawBit_pixel (cx cy : Byte) (r : Nat) (row : Byte) (f : Framebuffer) (hit : Bool) (c : Nat)
    (px : Fin 64) (py : Fin 32) :
    Framebuffer.pixel (drawBit cx cy r row (f, hit) c).1 px py =
      (Framebuffer.pixel f px py !=
        (row.getLsbD (7 - c) && decide (px = spriteColumn cx c) && decide (py = spriteRow cy r))) := by
  by_cases hb : row.getLsbD (7 - c) = true
  · simp [drawBit, hb, Framebuffer.pixel_flip]
  · simp [drawBit, hb]

theorem drawBit_hit (cx cy : Byte) (r : Nat) (row : Byte) (f : Framebuffer) (hit : Bool) (c : Nat) :
    (drawBit cx cy r row (f, hit) c).2 =
      (hit || (row.getLsbD (7 - c) && Framebuffer.pixel f (spriteColumn cx c) (spriteRow cy r))) := by
  by_cases hb : row.getLsbD (7 - c) = true
  · simp [drawBit, hb]
  · simp [drawBit, hb]

/-- R234 and the last clause of R235 have no model in common (log entry 15): whatever compositor inverts the pixels
of a mask `P` and reports a collision exactly where `P` meets a set pixel, as R234 says, reports none at the second
of two draws over a region that was set. -/
theorem second_draw_misses_a_set_region {P : Fin 64 → Fin 32 → Prop} {d : Framebuffer → Framebuffer × Bool}
    (hxor : ∀ f x y, P x y → Framebuffer.pixel (d f).1 x y = !Framebuffer.pixel f x y)
    (hhit : ∀ f, (d f).2 = true ↔ ∃ x y, P x y ∧ Framebuffer.pixel f x y = true)
    {f : Framebuffer} (hset : ∀ x y, P x y → Framebuffer.pixel f x y = true) :
    (d (d f).1).2 = false := by
  rw [← Bool.not_eq_true, hhit]
  rintro ⟨x, y, hP, hpix⟩
  rw [hxor f x y hP, hset x y hP] at hpix
  cases hpix

end Sys2Proof.Machine
end

