-- ==== Sys2Proof/Laws/Host.lean ====
section
/-! SUPPORT. The host operations field by field. -/

namespace Sys2Proof.Machine

variable (s : State)

theorem State.hostReset_eq (c : Config) : s.hostReset c = (State.resetWith c).setDraws s.draws := rfl

/-- A reset leaves no cell listed, so its memory is in canonical form. -/
theorem State.hostReset_wf (c : Config) : Memory.wf (s.hostReset c).cfg (s.hostReset c).mem = true := rfl

@[simp] theorem State.length_dump : s.dump.length = 4118 := by
  simp [State.dump, memSize]

section Restore
variable (image : List Byte)

@[simp] theorem State.restored_mem : (s.restored image).mem = (s.writeBytes 0 (image.take memSize)).mem := by
  simp only [State.restored, State.setSt_mem, State.setDt_mem, State.setPc_mem, State.setIdx_mem, State.setV_mem]

@[simp] theorem State.restored_readByte (a : Nat) :
    (s.restored image).readByte a = (s.writeBytes 0 (image.take memSize)).readByte a := by
  simp only [State.restored, State.setSt_readByte, State.setDt_readByte, State.setPc_readByte,
    State.setIdx_readByte, State.setV_readByte]

/-- A restore writes the dumped fields and nothing else. -/
theorem State.restored_eq :
    s.restored image =
      (((((s.setMem (s.writeBytes 0 (image.take memSize)).mem).setV
        (Vector.ofFn fun i : Fin 16 => imageByte image (4096 + i.val))).setIdx
        (wordOfBytes (imageByte image 4113) (imageByte image 4112))).setPc
        (wordOfBytes (imageByte image 4115) (imageByte image 4114))).setDt
        (imageByte image 4116)).setSt (imageByte image 4117) := by
  rw [State.restored, ← State.writeBytes_eq]

end Restore

end Sys2Proof.Machine
end

