-- ==== Sys2Proof/Laws/PerInstr.lean ====
section
/-! SUPPORT. The family EncodeMatchesRow: the word of every instruction matches the mask and pattern of its own
row of the opcode map (30_encoding.md R110), one lemma per constructor. -/

namespace Sys2Proof

/-- Keeping the group nibble of a word. -/
theorem and_mask_group (op : Word) : op &&& 0xF000 = BitVec.ofNat 16 (op.toNat / 0x1000 * 0x1000) := by
  have := op.isLt
  ext i hi
  rw [← BitVec.getLsbD_eq_getElem, ← BitVec.getLsbD_eq_getElem, BitVec.getLsbD_and, BitVec.getLsbD_ofNat,
    BitVec.getLsbD, Nat.testBit_eq_decide_div_mod_eq, Nat.testBit_eq_decide_div_mod_eq]
  interval_cases i <;> simp <;> omega

/-- Keeping the group nibble and the low byte of a word. -/
theorem and_mask_group_byte (op : Word) :
    op &&& 0xF0FF = BitVec.ofNat 16 (op.toNat / 0x1000 * 0x1000 + op.toNat % 0x100) := by
  have := op.isLt
  ext i hi
  rw [← BitVec.getLsbD_eq_getElem, ← BitVec.getLsbD_eq_getElem, BitVec.getLsbD_and, BitVec.getLsbD_ofNat,
    BitVec.getLsbD, Nat.testBit_eq_decide_div_mod_eq, Nat.testBit_eq_decide_div_mod_eq]
  interval_cases i <;> simp <;> omega

/-- Keeping the group nibble and the low nibble of a word. -/
theorem and_mask_group_nibble (op : Word) :
    op &&& 0xF00F = BitVec.ofNat 16 (op.toNat / 0x1000 * 0x1000 + op.toNat % 0x10) := by
  have := op.isLt
  ext i hi
  rw [← BitVec.getLsbD_eq_getElem, ← BitVec.getLsbD_eq_getElem, BitVec.getLsbD_and, BitVec.getLsbD_ofNat,
    BitVec.getLsbD, Nat.testBit_eq_decide_div_mod_eq, Nat.testBit_eq_decide_div_mod_eq]
  interval_cases i <;> simp <;> omega

section Formats
variable {g : Nat} (hg : g < 16)

include hg in
theorem addrWord_group (nnn : BitVec 12) : addrWord g nnn &&& 0xF000 = BitVec.ofNat 16 (g * 0x1000) := by
  have := nnn.isLt
  rw [and_mask_group, toNat_addrWord hg, show (g * 0x1000 + nnn.toNat) / 0x1000 = g by omega]

include hg in
theorem regByteWord_group (x : Reg) (kk : Byte) :
    regByteWord g x kk &&& 0xF000 = BitVec.ofNat 16 (g * 0x1000) := by
  have := kk.isLt
  have := x.isLt
  rw [and_mask_group, toNat_regByteWord hg,
    show (g * 0x1000 + x.val * 0x100 + kk.toNat) / 0x1000 = g by omega]

include hg in
theorem regByteWord_group_byte (x : Reg) (kk : Byte) :
    regByteWord g x kk &&& 0xF0FF = BitVec.ofNat 16 (g * 0x1000 + kk.toNat) := by
  have := kk.isLt
  have := x.isLt
  rw [and_mask_group_byte, toNat_regByteWord hg,
    show (g * 0x1000 + x.val * 0x100 + kk.toNat) / 0x1000 = g by omega,
    show (g * 0x1000 + x.val * 0x100 + kk.toNat) % 0x100 = kk.toNat by omega]

include hg in
theorem regRegWord_group (x y : Reg) (n : BitVec 4) :
    regRegWord g x y n &&& 0xF000 = BitVec.ofNat 16 (g * 0x1000) := by
  have := n.isLt
  have := x.isLt
  have := y.isLt
  rw [and_mask_group, toNat_regRegWord hg,
    show (g * 0x1000 + x.val * 0x100 + y.val * 0x10 + n.toNat) / 0x1000 = g by omega]

include hg in
theorem regRegWord_group_nibble (x y : Reg) (n : BitVec 4) :
    regRegWord g x y n &&& 0xF00F = BitVec.ofNat 16 (g * 0x1000 + n.toNat) := by
  have := n.isLt
  have := x.isLt
  have := y.isLt
  rw [and_mask_group_nibble, toNat_regRegWord hg,
    show (g * 0x1000 + x.val * 0x100 + y.val * 0x10 + n.toNat) / 0x1000 = g by omega,
    show (g * 0x1000 + x.val * 0x100 + y.val * 0x10 + n.toNat) % 0x10 = n.toNat by omega]

theorem noneWord_group_byte (ign : BitVec 4) (kk : Byte) :
    noneWord ign kk &&& 0xF0FF = BitVec.ofNat 16 kk.toNat := by
  have := kk.isLt
  have := ign.isLt
  rw [and_mask_group_byte, toNat_noneWord, show (ign.toNat * 0x100 + kk.toNat) / 0x1000 = 0 by omega,
    show (ign.toNat * 0x100 + kk.toNat) % 0x100 = kk.toNat by omega, Nat.zero_mul, Nat.zero_add]

end Formats

end Sys2Proof

namespace Sys2Proof.Laws.EncodeMatchesRow

/-- The instruction's word matches its row (R110). -/
def Statement (i : Instr) : Prop := encode i &&& (rowOf i).mask = (rowOf i).pattern

theorem sys (nnn : BitVec 12) : Statement (.sys nnn) :=
  addrWord_group (g := 0x0) (by decide) nnn

theorem cls (ign : BitVec 4) : Statement (.cls ign) :=
  noneWord_group_byte ign 0xE0

theorem ret (ign : BitVec 4) : Statement (.ret ign) :=
  noneWord_group_byte ign 0xEE

theorem jp (nnn : BitVec 12) : Statement (.jp nnn) :=
  addrWord_group (g := 0x1) (by decide) nnn

theorem call (nnn : BitVec 12) : Statement (.call nnn) :=
  addrWord_group (g := 0x2) (by decide) nnn

theorem seByte (x : Reg) (kk : Byte) : Statement (.seByte x kk) :=
  regByteWord_group (g := 0x3) (by decide) x kk

theorem sneByte (x : Reg) (kk : Byte) : Statement (.sneByte x kk) :=
  regByteWord_group (g := 0x4) (by decide) x kk

theorem seReg (x y : Reg) (ign : BitVec 4) : Statement (.seReg x y ign) :=
  regRegWord_group (g := 0x5) (by decide) x y ign

theorem ldByte (x : Reg) (kk : Byte) : Statement (.ldByte x kk) :=
  regByteWord_group (g := 0x6) (by decide) x kk

theorem addByte (x : Reg) (kk : Byte) : Statement (.addByte x kk) :=
  regByteWord_group (g := 0x7) (by decide) x kk

theorem ldReg (x y : Reg) : Statement (.ldReg x y) :=
  regRegWord_group_nibble (g := 0x8) (by decide) x y 0x0

theorem orReg (x y : Reg) : Statement (.orReg x y) :=
  regRegWord_group_nibble (g := 0x8) (by decide) x y 0x1

theorem andReg (x y : Reg) : Statement (.andReg x y) :=
  regRegWord_group_nibble (g := 0x8) (by decide) x y 0x2

theorem xorReg (x y : Reg) : Statement (.xorReg x y) :=
  regRegWord_group_nibble (g := 0x8) (by decide) x y 0x3

theorem addReg (x y : Reg) : Statement (.addReg x y) :=
  regRegWord_group_nibble (g := 0x8) (by decide) x y 0x4

theorem sub (x y : Reg) : Statement (.sub x y) :=
  regRegWord_group_nibble (g := 0x8) (by decide) x y 0x5

theorem shr (x y : Reg) : Statement (.shr x y) :=
  regRegWord_group_nibble (g := 0x8) (by decide) x y 0x6

theorem subn (x y : Reg) : Statement (.subn x y) :=
  regRegWord_group_nibble (g := 0x8) (by decide) x y 0x7

theorem shl (x y : Reg) : Statement (.shl x y) :=
  regRegWord_group_nibble (g := 0x8) (by decide) x y 0xE

theorem sneReg (x y : Reg) (ign : BitVec 4) : Statement (.sneReg x y ign) :=
  regRegWord_group (g := 0x9) (by decide) x y ign

theorem ldI (nnn : BitVec 12) : Statement (.ldI nnn) :=
  addrWord_group (g := 0xA) (by decide) nnn

theorem jpV0 (nnn : BitVec 12) : Statement (.jpV0 nnn) :=
  addrWord_group (g := 0xB) (by decide) nnn

theorem rnd (x : Reg) (kk : Byte) : Statement (.rnd x kk) :=
  regByteWord_group (g := 0xC) (by decide) x kk

theorem drw (x y : Reg) (n : BitVec 4) : Statement (.drw x y n) :=
  regRegWord_group (g := 0xD) (by decide) x y n

theorem skp (x : Reg) : Statement (.skp x) :=
  regByteWord_group_byte (g := 0xE) (by decide) x 0x9E

theorem sknp (x : Reg) : Statement (.sknp x) :=
  regByteWord_group_byte (g := 0xE) (by decide) x 0xA1

theorem ldVxDt (x : Reg) : Statement (.ldVxDt x) :=
  regByteWord_group_byte (g := 0xF) (by decide) x 0x07

theorem ldVxK (x : Reg) : Statement (.ldVxK x) :=
  regByteWord_group_byte (g := 0xF) (by decide) x 0x0A

theorem ldDtVx (x : Reg) : Statement (.ldDtVx x) :=
  regByteWord_group_byte (g := 0xF) (by decide) x 0x15

theorem ldStVx (x : Reg) : Statement (.ldStVx x) :=
  regByteWord_group_byte (g := 0xF) (by decide) x 0x18

theorem addI (x : Reg) : Statement (.addI x) :=
  regByteWord_group_byte (g := 0xF) (by decide) x 0x1E

theorem ldF (x : Reg) : Statement (.ldF x) :=
  regByteWord_group_byte (g := 0xF) (by decide) x 0x29

theorem ldB (x : Reg) : Statement (.ldB x) :=
  regByteWord_group_byte (g := 0xF) (by decide) x 0x33

theorem storeRegs (x : Reg) : Statement (.storeRegs x) :=
  regByteWord_group_byte (g := 0xF) (by decide) x 0x55

theorem loadRegs (x : Reg) : Statement (.loadRegs x) :=
  regByteWord_group_byte (g := 0xF) (by decide) x 0x65

end Sys2Proof.Laws.EncodeMatchesRow
end

