-- ==== Sys2Proof/Tests/Slice0.lean ====
section
/-! SUPPORT. The model's own tests.  Expected values come from the spec: the vectors of 95_test_vectors.md, named in
each test's comment, and encodings written out from the table of 30_encoding.md R110.  The theorems named
`witness_…` each show states and operands that meet the hypotheses of the obligation after which they are
named. -/

namespace Sys2Proof.Tests

open Sys2Proof.Machine

/-! ## Helpers -/

/-- The start state of the vectors: reset, one word at `PC` = `a`. -/
def wordAt (a : Nat) (op : Word) : State :=
  (State.reset.setPc (BitVec.ofNat 16 a)).writeBytes a [highByte op, lowByte op]

/-- One word at 0x300, and the registers that the vector names. -/
def start (op : Word) (regs : List (Reg × Byte)) : State :=
  regs.foldl (fun s p => s.setReg p.1 p.2) (wordAt 0x300 op)

/-- The parameters of a state, with one of them set. -/
def shiftVy (s : State) : State := { s with cfg := { s.cfg with shiftReadsVy := true } }
def inTestMode (s : State) : State := { s with cfg := { s.cfg with testMode := true } }
def stackFatal (s : State) : State := { s with cfg := { s.cfg with stackFaultFatal := true } }

/-- One pixel set. -/
def lit (x : Fin 64) (y : Fin 32) (s : State) : State := s.setFb (Framebuffer.flip s.fb x y)

/-- What an outcome's next state shows. -/
def seen {α : Type} (f : State → α) : Result → Option α
  | .next t => some (f t)
  | .fault _ => none
  | .refused _ => none

/-- What the state after one step shows. -/
def after {α : Type} (f : State → α) (s : State) : Option α := seen f (step s)

theorem seen_eq_some {α : Type} {f : State → α} {o : Result} {v : α} (h : seen f o = some v) :
    ∃ t, o = .next t ∧ f t = v := by
  cases o with
  | next t => exact ⟨t, rfl, by simpa [seen] using h⟩
  | fault r => cases h
  | refused r => cases h

/-- The record of a cycle, as the vectors write it. -/
def recorded (c : Diag) (pc op : Word) : DiagRecord := { valid := true, code := c, pc := pc, opcode := op }

/-- The columns of one row whose pixels are set. -/
def litColumns (y : Fin 32) (s : State) : List (Fin 64) := (List.finRange 64).filter fun x => s.pixel x y

/-- A key pressed. -/
def press (k : Fin 16) (s : State) : State := s.setKey (s.key ||| BitVec.twoPow 16 k.val)

/-! ## Well-formedness: the fallback row takes no word of CLS or RET -/

theorem test_wf_refuses_sys_with_cls_byte : (Instr.sys 0x1E0).wf = false := by decide
theorem test_wf_refuses_sys_with_ret_byte : (Instr.sys 0x0EE).wf = false := by decide
theorem test_wf_accepts_sys : (Instr.sys 0x123).wf = true := by decide

/-! ## Decoding: words written out field by field from R101, R102 and R110 -/

/-- Group 0x0 (rows 1 to 3) and the addr rows 4, 5, 21, 22: group, nnn. -/
theorem test_decode_flow_words :
    decodeWord 0b0000000100100011 = .ok (.sys 0x123) ∧
    decodeWord 0b0000000011100000 = .ok (.cls 0x0) ∧
    decodeWord 0b0000111111101110 = .ok (.ret 0xF) ∧
    decodeWord 0b0001001001001000 = .ok (.jp 0x248) ∧
    decodeWord 0b0010010000000000 = .ok (.call 0x400) ∧
    decodeWord 0b1011111111111111 = .ok (.jpV0 0xFFF) ∧
    decodeWord 0b1010001100000000 = .ok (.ldI 0x300) := by decide

/-- Rows 6, 7, 8, 20: group, x, kk or y and the ignored nibble. -/
theorem test_decode_skip_words :
    decodeWord 0b0011000101000010 = .ok (.seByte 0x1 0x42) ∧
    decodeWord 0b0100000101000011 = .ok (.sneByte 0x1 0x43) ∧
    decodeWord 0b0101001000111111 = .ok (.seReg 0x2 0x3 0xF) ∧
    decodeWord 0b1001010001000000 = .ok (.sneReg 0x4 0x4 0x0) ∧
    decodeWord 0b1110000110011110 = .ok (.skp 0x1) ∧
    decodeWord 0b1110000110100001 = .ok (.sknp 0x1) := by decide

/-- Rows 9 to 19 and 23: group, x, kk or y and the sub-key. -/
theorem test_decode_alu_words :
    decodeWord 0b0110111100110011 = .ok (.ldByte 0xF 0x33) ∧
    decodeWord 0b0111001000000001 = .ok (.addByte 0x2 0x01) ∧
    decodeWord 0b1000000100100000 = .ok (.ldReg 0x1 0x2) ∧
    decodeWord 0b1000000100100001 = .ok (.orReg 0x1 0x2) ∧
    decodeWord 0b1000000100100010 = .ok (.andReg 0x1 0x2) ∧
    decodeWord 0b1000000100100011 = .ok (.xorReg 0x1 0x2) ∧
    decodeWord 0b1000000100100100 = .ok (.addReg 0x1 0x2) ∧
    decodeWord 0b1000000100100101 = .ok (.sub 0x1 0x2) ∧
    decodeWord 0b1000000100100110 = .ok (.shr 0x1 0x2) ∧
    decodeWord 0b1000000100100111 = .ok (.subn 0x1 0x2) ∧
    decodeWord 0b1000000100101110 = .ok (.shl 0x1 0x2) ∧
    decodeWord 0b1100000000001111 = .ok (.rnd 0x0 0x0F) := by decide

/-- Rows 24 and 27 to 35: group, x, y, n or the low byte. -/
theorem test_decode_display_timer_memory_words :
    decodeWord 0b1101000100100101 = .ok (.drw 0x1 0x2 0x5) ∧
    decodeWord 0b1111001100000111 = .ok (.ldVxDt 0x3) ∧
    decodeWord 0b1111001000001010 = .ok (.ldVxK 0x2) ∧
    decodeWord 0b1111000000010101 = .ok (.ldDtVx 0x0) ∧
    decodeWord 0b1111000000011000 = .ok (.ldStVx 0x0) ∧
    decodeWord 0b1111000100011110 = .ok (.addI 0x1) ∧
    decodeWord 0b1111000100101001 = .ok (.ldF 0x1) ∧
    decodeWord 0b1111000000110011 = .ok (.ldB 0x0) ∧
    decodeWord 0b1111111101010101 = .ok (.storeRegs 0xF) ∧
    decodeWord 0b1111001001100101 = .ok (.loadRegs 0x2) := by decide

/-- The unknown words of 95_test_vectors.md CY4 to CY6, by name. -/
theorem test_decode_unknown_words :
    decodeWord 0x8008 = .error (.noRowInGroup8 0x8) ∧ decodeWord 0xE09F = .error (.noRowInGroupE 0x9F) ∧
    decodeWord 0xFFFF = .error (.noRowInGroupF 0xFF) ∧ decode [0x12] = .error .truncated := by decide

/-- The placed word is run by the first step after reset. -/
theorem test_table_word : decodeTableWord 16 0x6A7F = some (.ldByte 0xA 0x7F) ∧
    after (fun t => (t.reg 0xA, t.pc)) (State.reset.withFetchWord 16 0x6A7F) = some (0x7F, 0x202) := by decide

/-! ## The cycle -/

/-- CY1 and CY2: SYS. -/
theorem test_sys : after (fun t => (t.pc, t.diag)) (start 0x0123 []) =
    some (0x302, recorded .unknownOpcode 0x300 0x0123) := by decide

/-- CY7: an unknown word still ticks. -/
theorem test_unknown_word_ticks : after (fun t => (t.pc, t.dt, t.diag)) ((start 0x8008 []).setDt 3) =
    some (0x302, 2, recorded .unknownOpcode 0x300 0x8008) := by decide

/-- CY8: the word at 0xFFE is fetched. -/
theorem test_last_word_is_fetched : after (fun t => (t.reg 0, t.pc, t.diag.valid)) (wordAt 0xFFE 0x7001) =
    some (1, 0x1000, false) := by decide

/-- CY10: the fetch guard at 0xFFF. -/
theorem test_fetch_guard : after (fun t => (t.pc, t.dt, t.diag)) ((State.reset.setPc 0xFFF).setDt 3) =
    some (0xFFF, 2, recorded .fetchOutOfBounds 0xFFF 0x0000) := by decide

/-- CY11: no alignment check. -/
theorem test_odd_fetch : after (fun t => (t.reg 1, t.pc)) (wordAt 0x301 0x6105) = some (5, 0x303) := by decide

/-- CY12: HALTED. -/
theorem test_halted : after (fun t => (t.pc, t.dt)) (((start 0x6105 []).setFsm .halted).setDt 5) =
    some (0x300, 5) := by decide

/-! ## Control flow -/

/-- FL1. -/
theorem test_jp : after (fun t => t.pc) (start 0x1248 []) = some 0x248 := by decide
/-- FL3. -/
theorem test_call : after (fun t => (t.stack[0], t.sp, t.pc)) (start 0x2400 []) =
    some (0x302, 1, 0x400) := by decide
/-- FL5. -/
theorem test_call_overflow_halts :
    after (fun t => (t.pc, t.sp, t.fsm, t.dt, t.diag)) (stackFatal (((start 0x2400 []).setSp 16).setDt 4)) =
    some (0x302, 16, .halted, 4, recorded .stackOverflow 0x300 0x2400) := by decide
/-- FL6. -/
theorem test_ret : after (fun t => (t.pc, t.sp, t.stack[1]))
    (((start 0x00EE []).setStack ((Vector.replicate 16 0).set 1 0x356)).setSp 2) =
    some (0x356, 1, 0x356) := by decide
/-- FL8. -/
theorem test_ret_sentinel : after (fun t => (t.pc, t.dt, t.fsm, t.diag)) (inTestMode ((start 0x00EE []).setDt 4)) =
    some (0x302, 4, .halted, recorded .stackUnderflow 0x300 0x00EE) := by decide
/-- FL10. -/
theorem test_jpV0 : after (fun t => t.pc) (start 0xBFFF [(0, 0xFF)]) = some 0x10FE := by decide
/-- FL12 and FL13. -/
theorem test_seByte : after (fun t => t.pc) (start 0x3142 [(1, 0x42)]) = some 0x304 ∧
    after (fun t => t.pc) (start 0x3143 [(1, 0x42)]) = some 0x302 := by decide
/-- FL14. -/
theorem test_sneByte : after (fun t => t.pc) (start 0x4143 [(1, 0x42)]) = some 0x304 := by decide
/-- FL15. -/
theorem test_seReg : after (fun t => t.pc) (start 0x523F [(2, 7), (3, 7)]) = some 0x304 := by decide
/-- FL16, and R156 with differing registers. -/
theorem test_sneReg : after (fun t => t.pc) (start 0x9440 [(4, 9)]) = some 0x302 ∧
    after (fun t => t.pc) (start 0x912F [(1, 9)]) = some 0x304 := by decide

/-! ## Arithmetic -/

/-- EX1. -/
theorem test_ldByte : after (fun t => (t.reg 0xA, t.pc, t.diag.valid)) (start 0x6A7F []) =
    some (0x7F, 0x302, false) := by decide
/-- AL2. -/
theorem test_addByte : after (fun t => (t.reg 2, t.reg 15)) (start 0x7201 [(2, 0xFF), (15, 9)]) =
    some (0x00, 9) := by decide
/-- AL3. -/
theorem test_ldReg : after (fun t => (t.reg 1, t.reg 2)) (start 0x8120 [(1, 0x12), (2, 0x34)]) =
    some (0x34, 0x34) := by decide
/-- AL4. -/
theorem test_or : after (fun t => t.reg 1) (start 0x8121 [(1, 0xF0), (2, 0x0F)]) = some 0xFF := by decide
/-- AL5. -/
theorem test_and : after (fun t => t.reg 1) (start 0x8122 [(1, 0xF0), (2, 0x3C)]) = some 0x30 := by decide
/-- AL6. -/
theorem test_xor : after (fun t => (t.reg 1, t.reg 15)) (start 0x8123 [(1, 0xF0), (2, 0x3C), (15, 7)]) =
    some (0xCC, 7) := by decide
/-- AL7 and AL9. -/
theorem test_addReg : after (fun t => (t.reg 1, t.reg 15)) (start 0x8124 [(1, 0xFF), (2, 0x01)]) =
    some (0x00, 1) ∧
    after (fun t => (t.reg 1, t.reg 15)) (start 0x8124 [(1, 0x80), (2, 0x7F)]) = some (0xFF, 0) := by decide
/-- EX3 at `x` = 15. -/
theorem test_addReg_vF : after (fun t => t.reg 15) (start 0x8F14 [(15, 0xFF), (1, 0x01)]) = some 1 := by decide
/-- AL12 and AL13. -/
theorem test_sub : after (fun t => (t.reg 1, t.reg 15)) (start 0x8125 [(1, 3), (2, 5)]) = some (0xFE, 0) ∧
    after (fun t => (t.reg 1, t.reg 15)) (start 0x8125 [(1, 5), (2, 5)]) = some (0x00, 0) := by decide
/-- AL11 and AL26. -/
theorem test_sub_flag : after (fun t => (t.reg 1, t.reg 15)) (start 0x8125 [(1, 5), (2, 3)]) = some (0x02, 1) ∧
    after (fun t => t.reg 15) (start 0x8F15 [(15, 1), (1, 2)]) = some 0 := by decide
/-- AL14 and AL15. -/
theorem test_subn : after (fun t => (t.reg 1, t.reg 15)) (start 0x8127 [(1, 3), (2, 5)]) = some (0x02, 1) ∧
    after (fun t => (t.reg 1, t.reg 15)) (start 0x8127 [(1, 5), (2, 3)]) = some (0xFE, 0) := by decide
/-- AL17 and AL23. -/
theorem test_shr : after (fun t => (t.reg 1, t.reg 15)) (start 0x8126 [(1, 0x05), (2, 0xFF)]) = some (0x02, 1) ∧
    after (fun t => (t.reg 1, t.reg 15)) (shiftVy (start 0x8126 [(1, 0x10), (2, 0x81)])) =
      some (0x40, 1) := by decide
/-- AL21. -/
theorem test_shr_vF : after (fun t => t.reg 15) (start 0x8F06 [(15, 0x02)]) = some 0 := by decide
/-- AL20 and AL24. -/
theorem test_shl : after (fun t => (t.reg 1, t.reg 15)) (start 0x810E [(1, 0x40)]) = some (0x80, 0) ∧
    after (fun t => (t.reg 1, t.reg 15)) (shiftVy (start 0x812E [(1, 0x10), (2, 0x81)])) =
      some (0x02, 1) := by decide
/-- AL22. -/
theorem test_shl_vF : after (fun t => t.reg 15) (start 0x8F0E [(15, 0x80)]) = some 1 := by decide
/-- AL27, with the draw 0xAB given. -/
theorem test_rnd_mask : (State.masked (start 0xC00F []) 0 0x0F 0xAB).reg 0 = 0x0B := by decide
/-- R192: two executions take two separate draws. -/
theorem test_rnd_takes_a_draw : after (fun t => (t.draws, t.pc)) (start 0xC000 []) = some (1, 0x302) := by decide

/-! ## Index register and memory -/

/-- MI1. -/
theorem test_ldI : after (fun t => t.idx) (start 0xA300 []) = some 0x300 := by decide
/-- MI4. -/
theorem test_addI_wraps : after (fun t => (t.idx, t.reg 15)) ((start 0xF11E [(1, 2), (15, 6)]).setIdx 0xFFFF) =
    some (0x0001, 6) := by decide
/-- MI6. -/
theorem test_ldF_whole_byte : after (fun t => t.idx) (start 0xF129 [(1, 0xFF)]) = some 0x04FB := by decide
/-- MI7. -/
theorem test_ldB : after (fun t => (t.readByte 0x300, t.readByte 0x301, t.readByte 0x302))
    ((start 0xF033 [(0, 254)]).setIdx 0x300) = some (2, 5, 4) := by decide
/-- MI10. -/
theorem test_ldB_rejected : after (fun t => (t.readByte 0xFFE, t.readByte 0xFFF, t.diag))
    ((start 0xF033 [(0, 254)]).setIdx 0xFFE) = some (0, 0, recorded .memOutOfBounds 0x300 0xF033) := by decide
/-- MI11. -/
theorem test_storeRegs : after (fun t => (t.readByte 0x305, t.readByte 0x306, t.readByte 0x307, t.idx))
    ((start 0xF155 [(0, 3), (1, 5), (2, 7)]).setIdx 0x305) = some (3, 5, 0, 0x305) := by decide
/-- MI13. -/
theorem test_storeRegs_rejected : after (fun t => (t.readByte 0xFF1, t.idx, t.diag))
    ((start 0xFF55 [(0, 3)]).setIdx 0xFF1) = some (0, 0xFF1, recorded .memOutOfBounds 0x300 0xFF55) := by decide
/-- MI15: glyph 0 of the default font. -/
theorem test_loadRegs : after (fun t => (t.reg 0, t.reg 1, t.reg 4, t.reg 5)) (start 0xF465 [(5, 9)]) =
    some (0xF0, 0x90, 0xF0, 9) := by decide
/-- MI16. -/
theorem test_loadRegs_rejected : after (fun t => (t.reg 0, t.diag)) ((start 0xF065 [(0, 9)]).setIdx 0x1000) =
    some (9, recorded .memOutOfBounds 0x300 0xF065) := by decide
/-- MI17: a store over the next instruction is fetched by the next cycle. -/
theorem test_store_is_fetched : after (fun t => t.fetchWord)
    ((start 0xF155 [(0, 0x12), (1, 0x34)]).setIdx 0x302) = some 0x1234 := by decide

/-! ## Display -/

/-- EX4. -/
theorem test_cls : after (fun t => (t.pixel 5 5, t.drawFlag)) (lit 5 5 (start 0x01E0 [])) =
    some (false, true) := by decide
/-- DP1: wrap-around of the columns. -/
theorem test_drw_wraps : after (fun t => (litColumns 0 t, t.reg 15, t.drawFlag))
    (((start 0xD121 [(1, 60), (2, 0)]).setIdx 0x400).writeByte 0x400 0xFF) =
    some ([0, 1, 2, 3, 60, 61, 62, 63], 0, true) := by decide
/-- DP5 and DP6: a collision, and none. -/
theorem test_drw_collision :
    after (fun t => (litColumns 0 t, t.reg 15)) (lit 0 0 (((start 0xD121 []).setIdx 0x400).writeByte 0x400 0x80)) =
      some ([], 1) ∧
    after (fun t => (litColumns 0 t, t.reg 15)) (lit 1 0 (((start 0xD121 []).setIdx 0x400).writeByte 0x400 0x80)) =
      some ([0, 1], 0) := by decide
/-- DP3: the low five bits of the row count, and the whole glyph is drawn. -/
theorem test_drw_glyph : after (fun t => (litColumns 8 t, litColumns 9 t, litColumns 12 t, litColumns 13 t))
    (start 0xD125 [(1, 200), (2, 40)]) = some ([8, 9, 10, 11], [8, 11], [8, 9, 10, 11], []) := by decide
/-- DP7. -/
theorem test_drw_rejected : after (fun t => (t.reg 15, t.drawFlag, t.diag)) ((start 0xD125 [(15, 7)]).setIdx 0xFFC) =
    some (0, false, recorded .spriteOutOfBounds 0x300 0xD125) := by decide

/-! ## Timers and keys -/

/-- TK1. -/
theorem test_ldDtVx : after (fun t => t.dt) (start 0xF015 [(0, 5)]) = some 4 := by decide
/-- TK4. -/
theorem test_ldStVx : after (fun t => (t.st, t.toneActive)) (start 0xF018 [(0, 0x3C)]) =
    some (0x3B, true) := by decide
/-- TK5. -/
theorem test_ldVxDt : after (fun t => (t.reg 3, t.dt)) ((start 0xF307 []).setDt 0x10) =
    some (0x10, 0x0F) := by decide
/-- TK8 and TK9. -/
theorem test_skp : after (fun t => t.pc) (press 3 (start 0xE19E [(1, 3)])) = some 0x304 ∧
    after (fun t => t.pc) (start 0xE19E [(1, 3)]) = some 0x302 := by decide
/-- TK12. -/
theorem test_skp_index : after (fun t => (t.pc, t.diag)) (press 0 (start 0xE19E [(1, 16)])) =
    some (0x302, recorded .keyIndexOutOfRange 0x300 0xE19E) := by decide
/-- TK10 and TK11. -/
theorem test_sknp : after (fun t => t.pc) (start 0xE1A1 [(1, 3)]) = some 0x304 ∧
    after (fun t => t.pc) (press 3 (start 0xE1A1 [(1, 3)])) = some 0x302 := by decide
/-- TK13. -/
theorem test_sknp_index : after (fun t => (t.pc, t.diag)) (start 0xE1A1 [(1, 16)]) =
    some (0x302, recorded .keyIndexOutOfRange 0x300 0xE1A1) := by decide
/-- TK14. -/
theorem test_ldVxK_waits : after (fun t => (t.pc, t.dt, t.reg 2)) ((start 0xF20A [(2, 9)]).setDt 5) =
    some (0x300, 4, 9) := by decide
/-- TK15. -/
theorem test_ldVxK_lowest : after (fun t => (t.pc, t.reg 2)) (press 0xA (press 7 (start 0xF20A []))) =
    some (0x302, 7) := by decide

/-! ## Host operations -/

/-- RS1. -/
theorem test_reset : ((start 0x6105 [(3, 9)]).hostReset Config.default).readByte 0x001 = 0x90 ∧
    ((start 0x6105 [(3, 9)]).hostReset Config.default).pc = 0x200 := by decide
/-- 70_reset_and_hazards.md R302. -/
theorem test_load : ((start 0x6105 []).load Config.default [0x12, 0x34]).2 = .ok ∧
    ((start 0x6105 []).load Config.default [0x12, 0x34]).1.fetchWord = 0x1234 := by decide
/-- RS6. -/
theorem test_restore_refuses : (start 0x6105 []).restore [1, 2, 3] = (start 0x6105 [], .refused) := by decide

/-- EX9's layout instance: the two bytes of `I` in a dump. -/
theorem test_dump_byte_order : [lowByte 0x1234, highByte 0x1234] = ([0x34, 0x12] : List Byte) := by decide

/-! ## Witnesses: for each obligation with hypotheses, states and operands that meet them, clause by clause -/

/-- A step's next state that shows what is asked. -/
def shows (s : State) (p : State → Bool) : Bool := (after p s) == some true

theorem shows_iff {s : State} {p : State → Bool} (h : shows s p = true) : ∃ t, step s = .next t ∧ p t = true := by
  simp only [shows, beq_iff_eq] at h
  exact seen_eq_some h

theorem witness_DecodeAfterEncodeGivesTheInstructionBack : (Instr.sys 0x0DF).wf = true ∧
    (Instr.cls 0xF).wf = true := by decide

theorem witness_EncodeAfterDecodeGivesTheWordBack : decodeWord 0x8F1E = .ok (.shl 0xF 0x1) := by decide

theorem witness_UnknownWordsAreExactlyTheUnresolvedSubKeys :
    decodeWord 0x800F = .error (.noRowInGroup8 0xF) ∧ decodeWord 0xE09D = .error (.noRowInGroupE 0x9D) ∧
    decodeWord 0xF066 = .error (.noRowInGroupF 0x66) := by decide

theorem witness_OpcodeMapRowsAreUniqueAndDecodeFollowsThem :
    decodeWord 0x00E0 = .ok (.cls 0) ∧ ∀ nnn, Instr.cls 0 ≠ .sys nnn := by
  refine ⟨by decide, fun nnn h => by cases h⟩

theorem witness_StepRunsTheDecodedInstruction :
    (wordAt 0xFFE 0x7001).fsm = .ready ∧ (wordAt 0xFFE 0x7001).pc.toNat < 4095 ∧
    decode [(wordAt 0xFFE 0x7001).readByte 0xFFE, (wordAt 0xFFE 0x7001).readByte 0xFFF] =
      .ok (.addByte 0 1, []) := by decide

/-- From a state held by the fetch guard, and from one that is not. -/
theorem witness_APlacedWordIsRunByTheNextStep :
    Memory.wf State.reset.cfg State.reset.mem = true ∧
    Memory.wf ((wordAt 0x300 0x6105).setPc 0xFFF).cfg ((wordAt 0x300 0x6105).setPc 0xFFF).mem = true ∧
    decodeTableWord 16 0x1248 = some (.jp 0x248) := by decide

theorem witness_AnUnknownWordIsRecordedAndPassedOver :
    (wordAt 0xFFE 0x8008).fsm = .ready ∧ (wordAt 0xFFE 0x8008).pc.toNat < 4095 ∧
    decodeWord (wordAt 0xFFE 0x8008).fetchWord = .error (.noRowInGroup8 0x8) := by decide

theorem witness_TheFetchGuardHoldsTheCore :
    (State.reset.setPc 0xFFF).fsm = .ready ∧ (State.reset.setPc 0xFFF).pc.toNat ≥ 4095 := by decide

theorem witness_TheLastWordOfMemoryIsFetchedAndThenTheGuardHolds :
    (wordAt 0xFFE 0x6105).fsm = .ready ∧ (wordAt 0xFFE 0x6105).pc.toNat = 4094 ∧
    decodeWord (wordOfBytes ((wordAt 0xFFE 0x6105).readByte 4094) ((wordAt 0xFFE 0x6105).readByte 4095)) =
      .ok (.ldByte 1 5) := by decide

theorem witness_AHaltedCoreKeepsItsStateUntilReset : (State.reset.setFsm .halted).fsm = .halted := by decide

/-- A halting cycle; the guard; an instruction that writes neither timer; the two that write one. -/
theorem witness_TimersTickExactlyOncePerCycle :
    (∃ t, step (inTestMode (start 0x00EE [])) = .next t ∧ decide (t.fsm = .halted) = true) ∧
    (∃ t, step (State.reset.setPc 0xFFF) = .next t ∧ decide (t.fsm = .ready) = true) ∧
    (∃ t, step (start 0x6105 []) = .next t ∧ decide (t.fsm = .ready) = true) ∧
    (∃ t, step (start 0xF015 [(0, 5)]) = .next t ∧ decide (t.fsm = .ready) = true) ∧
    (∃ t, step (start 0xF018 [(0, 5)]) = .next t ∧ decide (t.fsm = .ready) = true) :=
  ⟨shows_iff (by decide), shows_iff (by decide), shows_iff (by decide), shows_iff (by decide),
    shows_iff (by decide)⟩

/-- The first ready state of each cause, at the boundary of its range. -/
theorem witness_EachDiagnosticIsRaisedExactlyByItsCause :
    (∃ t, step (start 0x80F8 []) = .next t ∧ decide (t.diag.code = .unknownOpcode) = true) ∧
    (∃ t, step ((start 0x2400 []).setSp 16) = .next t ∧ decide (t.diag.code = .stackOverflow) = true) ∧
    (∃ t, step (start 0x00EE []) = .next t ∧ decide (t.diag.code = .stackUnderflow) = true) ∧
    (∃ t, step ((start 0xD001 []).setIdx 0x1000) = .next t ∧
      decide (t.diag.code = .spriteOutOfBounds) = true) ∧
    (∃ t, step ((start 0xF033 []).setIdx 0xFFE) = .next t ∧ decide (t.diag.code = .memOutOfBounds) = true) ∧
    (∃ t, step (start 0xE09E [(0, 16)]) = .next t ∧ decide (t.diag.code = .keyIndexOutOfRange) = true) ∧
    (∃ t, step (State.reset.setPc 0xFFF) = .next t ∧ decide (t.diag.code = .fetchOutOfBounds) = true) :=
  ⟨shows_iff (by decide), shows_iff (by decide), shows_iff (by decide), shows_iff (by decide),
    shows_iff (by decide), shows_iff (by decide), shows_iff (by decide)⟩

theorem witness_TheDiagnosticRecordNamesTheInstruction :
    (∃ t, step (start 0x8008 []) = .next t ∧ t.diag.valid = true) ∧
    (∃ t, step (start 0x6001 []) = .next t ∧ (!t.diag.valid) = true) :=
  ⟨shows_iff (by decide), shows_iff (by decide)⟩

theorem witness_OnlyFatalStackFaultsHalt :
    (∃ t, step (stackFatal ((start 0x2400 []).setSp 16)) = .next t ∧ decide (t.fsm = .halted) = true) ∧
    (∃ t, step (stackFatal (start 0x00EE [])) = .next t ∧ decide (t.fsm = .halted) = true) ∧
    (∃ t, step ((start 0x2400 []).setSp 16) = .next t ∧ decide (t.fsm = .ready) = true) :=
  ⟨shows_iff (by decide), shows_iff (by decide), shows_iff (by decide)⟩

theorem witness_EveryStepKeepsTheCoreSound :
    State.reset.Sound ∧ State.reset.Bounded ∧ ∃ t, step State.reset = .next t ∧ decide (t.pc = 0x202) = true := by
  refine ⟨⟨by decide, by decide, fun h => by cases h⟩, ⟨by decide, by decide⟩, shows_iff (by decide)⟩

theorem witness_EveryHostOperationKeepsTheCoreSound : State.reset.Sound :=
  ⟨by decide, by decide, fun h => by cases h⟩

/-- MI17. -/
theorem witness_StoredBytesAreFetchedByTheNextCycle :
    let s := (start 0xF155 [(0, 0x12), (1, 0x34)]).setIdx 0x302
    Memory.wf s.cfg s.mem = true ∧ s.fsm = .ready ∧ s.pc.toNat < 4093 ∧
      decodeWord s.fetchWord = .ok (.storeRegs 1) ∧ s.idx.toNat + 1 ≤ 4095 ∧
      s.idx.toNat + 0 = s.pc.toNat + 2 ∧ ∃ t, step s = .next t ∧ decide (t.fetchWord = 0x1234) = true := by
  refine ⟨by decide, by decide, by decide, by decide, by decide, by decide, shows_iff (by decide)⟩

theorem witness_CallPushesTheReturnAddressOrIsDropped :
    (State.reset.setSp 15).sp.val < 16 ∧ (State.reset.setSp 16).sp.val = 16 := by decide

theorem witness_RetPopsOrUnderflows :
    (State.reset.setSp 1).sp.val = (0 : Fin 16).val + 1 ∧ (State.reset.setSp 16).sp.val = (15 : Fin 16).val + 1 ∧
    State.reset.sp.val = 0 := by decide

theorem witness_OnlyCallAndRetMoveTheStack :
    (∃ t, exec (.call 0x400) (State.reset.setSp 15) = .next t ∧ t.sp = 16) ∧
    ((State.reset.setSp 16).sp.val = 16 ∧
      ∃ t, exec (.call 0x400) (State.reset.setSp 16) = .next t ∧ t.sp = 16) :=
  ⟨seen_eq_some (f := fun t => t.sp) (by decide), by decide, seen_eq_some (f := fun t => t.sp) (by decide)⟩

theorem witness_ShiftsSetResultAndShiftedOutBit :
    (0x81 : Byte) = (if (shiftVy (start 0x8126 [(2, 0x81)])).cfg.shiftReadsVy = true then
      (shiftVy (start 0x8126 [(2, 0x81)])).reg 2 else (shiftVy (start 0x8126 [(2, 0x81)])).reg 1) := by decide

/-- Three bytes that end at 4095, and three that do not fit. -/
theorem witness_LdBStoresTheDecimalDigits :
    (Memory.wf (State.reset.setIdx 0xFFD).cfg (State.reset.setIdx 0xFFD).mem = true ∧
      (State.reset.setIdx 0xFFD).idx.toNat + 2 ≤ 4095) ∧ (State.reset.setIdx 0xFFE).idx.toNat + 2 > 4095 := by
  decide

theorem witness_RegisterDumpStoresTheRange :
    (Memory.wf (State.reset.setIdx 0xFF0).cfg (State.reset.setIdx 0xFF0).mem = true ∧
      (State.reset.setIdx 0xFF0).idx.toNat + (15 : Reg).val ≤ 4095) ∧
    (State.reset.setIdx 0xFF1).idx.toNat + (15 : Reg).val > 4095 := by decide

theorem witness_RegisterLoadReadsTheRange :
    (State.reset.setIdx 0xFFF).idx.toNat + (0 : Reg).val ≤ 4095 ∧
    (State.reset.setIdx 0x1000).idx.toNat + (0 : Reg).val > 4095 := by decide

theorem witness_DumpThenLoadGivesTheRegistersBack :
    Memory.wf (State.reset.setIdx 0xFF0).cfg (State.reset.setIdx 0xFF0).mem = true ∧
    (State.reset.setIdx 0xFF0).idx.toNat + (15 : Reg).val ≤ 4095 ∧
    ∃ t, exec (.storeRegs 15) (State.reset.setIdx 0xFF0) = .next t ∧ t.idx = 0xFF0 := by
  refine ⟨by decide, by decide, seen_eq_some (f := fun t => t.idx) (by decide)⟩

/-- A sprite that ends at the last byte with a set pixel under it, one on a blank region, one beyond. -/
theorem witness_DrwXorsTheSpriteMaskAndReportsCollision :
    let s := ((State.reset.setIdx 0xFFF).writeByte 0xFFF 0x80)
    s.idx.toNat + (1 : BitVec 4).toNat ≤ 4096 ∧ (lit 0 0 s).drwMask 0 0 1 0 0 ∧ (lit 0 0 s).pixel 0 0 = true ∧
      (¬ ∃ px py, s.drwMask 0 0 1 px py ∧ s.pixel px py = true) ∧
      s.idx.toNat + (2 : BitVec 4).toNat > 4096 := by
  refine ⟨by decide, ⟨0, 0, by decide, by decide, by decide, by decide, by decide⟩, by decide, ?_, by decide⟩
  rintro ⟨px, py, -, h⟩
  have hz : ∀ x y, State.pixel ((State.reset.setIdx 0xFFF).writeByte 0xFFF 0x80) x y = false := by
    intro x y
    simp [State.pixel, Framebuffer.pixel, State.writeByte, State.setMem, State.setIdx, State.reset, State.resetWith]
  rw [hz px py] at h
  cases h

theorem witness_DrawingTwiceIsAnInvolution :
    (List.replicate 15 (0x80 : Byte)).length ≤ 15 ∧
    ∀ x y, Framebuffer.pixel (Vector.replicate 32 0) x y = false := by
  refine ⟨by decide, fun x y => ?_⟩
  simp [Framebuffer.pixel]

/-- A sprite of one set bit, over its pixel clear and over its pixel set: each clause's premise, and by R232's loop the
second draw collides over the first and not over the second. -/
theorem witness_TheSecondDrawCollidesUnlessAllItsPixelsWereSet :
    ([0x80] : List Byte).length ≤ 15 ∧ (∃ b ∈ ([0x80] : List Byte), b ≠ 0) ∧
    (¬ ∀ x y, spriteMask 0 0 1 (fun r => ([0x80] : List Byte).getD r 0) x y →
      Framebuffer.pixel (Vector.replicate 32 0) x y = true) ∧
    (draw 0 0 [0x80] (draw 0 0 [0x80] (Vector.replicate 32 0)).1).2 = true ∧
    (∀ x y, spriteMask 0 0 1 (fun r => ([0x80] : List Byte).getD r 0) x y →
      Framebuffer.pixel (Vector.replicate 32 (BitVec.allOnes 64)) x y = true) ∧
    (draw 0 0 [0x80] (draw 0 0 [0x80] (Vector.replicate 32 (BitVec.allOnes 64))).1).2 = false := by
  refine ⟨by decide, by decide, fun h => ?_, by decide, fun x y _ => ?_, by decide⟩
  · exact absurd (h 0 0 ⟨0, 0, by decide, by decide, by decide, by decide, by decide⟩) (by decide)
  · simp [Framebuffer.pixel, -BitVec.reduceAllOnes, BitVec.getElem_allOnes]

theorem witness_KeySkipsReadOneKeyLevel :
    ((start 0xE19E [(1, 15)]).reg 1).toNat = (15 : Fin 16).val ∧ ((start 0xE19E [(1, 16)]).reg 1).toNat > 15 := by
  decide

/-- A lowest key with a higher one pressed beside it, and none. -/
theorem witness_WaitForKeyTakesTheLowestKeyOrRepeats :
    ((press 0xF (press 7 State.reset)).keyDown 7 = true ∧
      ∀ j : Fin 16, j < 7 → (press 0xF (press 7 State.reset)).keyDown j = false) ∧
    ∀ k : Fin 16, State.reset.keyDown k = false := by decide

theorem witness_WithNoKeyTheCoreWaitsForever :
    (start 0xF20A []).fsm = .ready ∧ (start 0xF20A []).pc.toNat < 4095 ∧
    decodeWord (start 0xF20A []).fetchWord = .ok (.ldVxK 2) ∧
    ∀ j : Fin 16, (start 0xF20A []).keyDown j = false := by decide

theorem witness_SysOnlyRecordsUnknownOpcode :
    (0x1DF : BitVec 12).toNat % 0x100 ≠ 0xE0 ∧ (0x1DF : BitVec 12).toNat % 0x100 ≠ 0xEE := by decide

theorem witness_EveryInstructionKeepsItsFrame :
    (∃ t, exec (.drw 1 2 5) State.reset = .next t ∧ t.drawFlag = true) ∧
    mayWriteReg 1 (.drw 1 2 5) = false ∧ (0x1FF < State.reset.indexed 0 ∨ State.reset.indexed 0 + 3 ≤ 0x1FF) :=
  ⟨seen_eq_some (f := fun t => t.drawFlag) (by decide), by decide, by decide⟩

theorem witness_IndexMemoryFramebufferAndSpChangeOnlyInTheirInstructions :
    (∃ t, step ((start 0xA300 []).setDrawFlag true) = .next t ∧ decide (t.idx ≠ 0) = true) ∧
    (∃ t, step ((start 0xF033 []).setIdx 0x300) = .next t ∧ decide (t.readByte 0x300 ≠ 0xF0) = true) ∧
    (∃ t, step (lit 1 1 (start 0x00E0 [])) = .next t ∧ (!t.pixel 1 1) = true) ∧
    (∃ t, step (start 0x2400 []) = .next t ∧ decide (t.sp ≠ 0) = true) ∧
    (∃ t, step (start 0xC000 []) = .next t ∧ decide (t.draws ≠ 0) = true) :=
  ⟨shows_iff (by decide), shows_iff (by decide), shows_iff (by decide), shows_iff (by decide),
    shows_iff (by decide)⟩

/-- A register, `PC` (at the guard and by a skip), a stack entry and the draw flag that change or stay. -/
theorem witness_RegistersPcStackAndDrawFlagChangeOnlyInTheirInstructions :
    (∃ t, step (start 0x6105 []) = .next t ∧ decide (t.reg 1 ≠ 0) = true) ∧
    ((State.reset.setPc 0xFFF).pc.toNat ≥ 4095 ∧
      ∃ t, step (State.reset.setPc 0xFFF) = .next t ∧ decide (t.pc = 0xFFF) = true) ∧
    (∃ t, step (wordAt 0xFFE 0x3000) = .next t ∧ decide (t.pc.toNat ≠ 0xFFE + 2) = true) ∧
    (∃ t, step ((start 0x2400 []).setSp 15) = .next t ∧ decide (t.stack[15] ≠ 0) = true) ∧
    (∃ t, step ((start 0xD001 []).setIdx 0xFFF) = .next t ∧ t.drawFlag = true) ∧
    ∃ t, step ((start 0xD001 []).setIdx 0x1000) = .next t ∧ (!t.drawFlag) = true :=
  ⟨shows_iff (by decide), ⟨by decide, shows_iff (by decide)⟩, shows_iff (by decide), shows_iff (by decide),
    shows_iff (by decide), shows_iff (by decide)⟩

/-- Two states that differ in the draw flag and the record, and step. -/
theorem witness_TheCoreNeverReadsWhatOnlyTheHostSees :
    (start 0x6105 []).sameButHostView (((start 0x6105 []).setDrawFlag true).setDiag (recorded .stackOverflow 1 2)) ∧
    (∃ t, step (start 0x6105 []) = .next t ∧ decide (t.reg 1 = 5) = true) ∧
    ∃ t, step (((start 0x6105 []).setDrawFlag true).setDiag (recorded .stackOverflow 1 2)) = .next t ∧
      decide (t.reg 1 = 5) = true :=
  ⟨rfl, shows_iff (by decide), shows_iff (by decide)⟩

/-- A RET with one entry pushed, over a stale entry that differs. -/
theorem witness_NoInstructionReadsAStaleStackEntry :
    ((start 0x00EE []).setSp 1).sameButStaleStack
      (((start 0x00EE []).setSp 1).setStack (((start 0x00EE []).setSp 1).stack.set 1 0x222)) ∧
    (∃ t, step ((start 0x00EE []).setSp 1) = .next t ∧ decide (t.sp = 0) = true) ∧
    ∃ t, step (((start 0x00EE []).setSp 1).setStack (((start 0x00EE []).setSp 1).stack.set 1 0x222)) = .next t ∧
      decide (t.sp = 0) = true :=
  ⟨⟨rfl, by decide⟩, shows_iff (by decide), shows_iff (by decide)⟩

theorem witness_LoadResetsAndPlacesTheRom :
    (List.replicate 3584 (0 : Byte)).length ≤ 3584 ∧ (List.replicate 3585 (0 : Byte)).length > 3584 := by
  simp only [List.length_replicate]
  decide

theorem witness_RestoreIsTheInverseOfDump :
    Memory.wf (start 0x6105 []).cfg (start 0x6105 []).mem = true ∧ ([] : List Byte).length ≠ 4118 ∧
    (List.replicate 4118 (0 : Byte)).length = 4118 := by
  refine ⟨by decide, by decide, List.length_replicate⟩

end Sys2Proof.Tests
end

section
/-! The host's side of the state (10_state.md): what reset, `write_keys`, `clear_draw_flag` and `read_outputs` leave
and show. -/

namespace Sys2Proof.Machine

/-! ### Frames -/

/-- An update of one part is framed part by part: it suffices that every other part still agrees. -/
theorem State.sameBut_singleton {s t : State} {q : Part} (h : ∀ p, p ≠ q → s.agreeOn t p) : s.sameBut t [q] :=
  fun p hp => h p (mt List.mem_singleton.mpr hp)

theorem State.setKey_sameBut (s : State) (k : BitVec 16) : s.sameBut (s.setKey k) [.key] := by
  refine State.sameBut_singleton fun p hp => ?_
  cases p with
  | key => exact absurd rfl hp
  | _ => simp [State.agreeOn]

theorem State.setDrawFlag_sameBut (s : State) (b : Bool) : s.sameBut (s.setDrawFlag b) [.drawFlag] := by
  refine State.sameBut_singleton fun p hp => ?_
  cases p with
  | drawFlag => exact absurd rfl hp
  | _ => simp [State.agreeOn]

theorem State.setDraws_sameBut (s : State) (n : Nat) : s.sameBut (s.setDraws n) [.draws] := by
  refine State.sameBut_singleton fun p hp => ?_
  cases p with
  | draws => exact absurd rfl hp
  | _ => simp [State.agreeOn]

/-! ### Reads of the state after a reset, through the model's reads -/

theorem resetByte_of_lt (c : Config) {a : Nat} (h : a < 80) : resetByte c a = c.fontset[a] := dif_pos h

theorem resetByte_of_ge (c : Config) {a : Nat} (h : 80 ≤ a) : resetByte c a = 0 := dif_neg (Nat.not_lt.mpr h)

section Reset
variable (s : State) (c : Config)

@[simp] theorem State.hostReset_readByte (a : Nat) : (s.hostReset c).readByte a = resetByte c a := rfl

@[simp] theorem State.hostReset_reg (r : Reg) : (s.hostReset c).reg r = 0 := Vector.getElem_replicate r.isLt

@[simp] theorem State.hostReset_stack (j : Fin 16) : (s.hostReset c).stack[j] = 0 := Vector.getElem_replicate j.isLt

@[simp] theorem State.hostReset_pixel (x : Fin 64) (y : Fin 32) : (s.hostReset c).pixel x y = false := by
  have row : (s.hostReset c).fb[y] = 0#64 := Vector.getElem_replicate y.isLt
  rw [State.pixel, Framebuffer.pixel, row, BitVec.getLsbD_zero]

@[simp] theorem State.hostReset_keyDown (k : Fin 16) : (s.hostReset c).keyDown k = false := BitVec.getLsbD_zero

end Reset

/-! ### What `read_outputs` shows -/

/-- Lists of one length `n` laid end to end: entry `j` of list `i` stands at `i * n + j`. -/
theorem getD_flatMap_of_length {α β : Type} {f : α → List β} {n : Nat} (hf : ∀ a, (f a).length = n) (d : β)
    (l : List α) (i j : Nat) (hi : i < l.length) (hj : j < n) :
    (l.flatMap f).getD (i * n + j) d = (f l[i]).getD j d := by
  induction l generalizing i with
  | nil => exact absurd hi (Nat.not_lt_zero i)
  | cons a l ih =>
    rw [List.flatMap_cons]
    cases i with
    | zero => rw [Nat.zero_mul, Nat.zero_add, List.getD_append _ _ _ _ (by rwa [hf]), List.getElem_cons_zero]
    | succ i =>
      have past : (i + 1) * n + j = n + (i * n + j) := by rw [Nat.succ_mul]; omega
      rw [past, List.getD_append_right _ _ _ _ (by rw [hf]; omega), hf, Nat.add_sub_cancel_left,
        ih i (Nat.lt_of_succ_lt_succ hi), List.getElem_cons_succ]

section Outputs
variable (s : State)

@[simp] theorem State.length_framebufferCells : s.framebufferCells.length = 2048 := by
  simp [State.framebufferCells, List.length_flatMap]

/-- R63: the cells run row by row. -/
theorem State.framebufferCells_getD (x : Fin 64) (y : Fin 32) :
    s.framebufferCells.getD (y.val * 64 + x.val) 0 = if s.pixel x y = true then 1 else 0 := by
  rw [State.framebufferCells, getD_flatMap_of_length (by simp) 0 _ y.val x.val (by simp) x.isLt]
  simp [State.pixel, Framebuffer.pixel]

theorem State.toneActive_iff : s.toneActive = true ↔ s.st.toNat ≠ 0 := by
  simp [State.toneActive, BitVec.toNat_eq]

theorem haltedOutput_iff (f : Fsm) : haltedOutput f = true ↔ f = .halted := by
  cases f <;> decide

theorem State.readOutputs_diagCode {d : Diag} (h : s.diag.code = d) :
    s.readOutputs.diagCode.toNat = (diagCode d).toNat :=
  congrArg (fun d => (diagCode d).toNat) h

end Outputs

/-! ### The obligations -/

/-- Settles O53: `read_outputs` is a read, its cells by the row-major layout and its status field by field, and
`clear_draw_flag` is one update. -/
theorem outputsShowTheFramebufferAndTheStatus : Obligations.OutputsShowTheFramebufferAndTheStatus := by
  intro s
  refine ⟨rfl, s.length_framebufferCells, s.framebufferCells_getD, rfl, s.toneActive_iff, haltedOutput_iff s.fsm,
    rfl, rfl, rfl, ?codes, s.setDrawFlag_drawFlag false, s.setDrawFlag_sameBut false⟩
  case codes => refine ⟨?_, ?_, ?_, ?_, ?_, ?_, ?_, ?_⟩ <;> exact s.readOutputs_diagCode

/-- Settles O49: after a reset every read gives the value of R50, and the state is the power-on state of `c` but for
the count of draws. -/
theorem resetGivesEveryPieceItsValue : Obligations.ResetGivesEveryPieceItsValue := by
  intro s c
  have font (a : Nat) (h : a < 80) : (s.hostReset c).readByte a = c.fontset[a] := resetByte_of_lt c h
  have rest (a : Nat) (h : 80 ≤ a) (_ : a < 4096) : (s.hostReset c).readByte a = 0 := resetByte_of_ge c h
  exact ⟨font, rest, s.hostReset_reg c, rfl, rfl, rfl, s.hostReset_stack c, rfl, rfl, s.hostReset_pixel c,
    s.hostReset_keyDown c, rfl, rfl, rfl, rfl, (State.resetWith c).setDraws_sameBut s.draws⟩

/-- Settles O54: `write_keys` is the update of the keypad, read back bit by bit. -/
theorem writeKeysSetsTheKeypadAlone : Obligations.WriteKeysSetsTheKeypadAlone := by
  intro s w
  have keys (k : Fin 16) : (s.setKey w).keyDown k = w.getLsbD k.val := by rw [State.keyDown, State.setKey_key]
  exact ⟨keys, s.setKey_sameBut w, rfl⟩

end Sys2Proof.Machine
end

section
/-! The cycle and its dispatch (40_cycle_dispatch.md): the fetch guard, the unknown word, SYS, and the two ways a cycle
halts. -/

namespace Sys2Proof.Machine

variable {s t u : State} {ps qs : List Part}

/-! ### Frames put together -/

theorem State.agreeOn_trans {p : Part} (h : s.agreeOn t p) (h' : t.agreeOn u p) : s.agreeOn u p := by
  cases p with
  | mem | regs | stack | key => exact fun a => (h' a).trans (h a)
  | fb => exact fun x y => (h' x y).trans (h x y)
  | cfg | idx | pc | sp | dt | st | drawFlag | fsm | diag | draws => exact Eq.trans h' h

/-- One update after the other writes at most what the two write. -/
theorem State.sameBut.append (h : s.sameBut t ps) (h' : t.sameBut u qs) : s.sameBut u (ps ++ qs) := fun p hp =>
  have ⟨hps, hqs⟩ := not_or.mp (mt List.mem_append.mpr hp)
  State.agreeOn_trans (h p hps) (h' p hqs)

theorem State.sameBut.mono (h : s.sameBut t ps) (hsub : ps ⊆ qs) : s.sameBut t qs := fun p hp => h p (mt (@hsub p) hp)

theorem State.sameBut.trans (h : s.sameBut t ps) (h' : t.sameBut u ps) : s.sameBut u ps :=
  (h.append h').mono (List.append_subset.mpr ⟨List.Subset.refl ps, List.Subset.refl ps⟩)

theorem State.setPc_sameBut (s : State) (w : Word) : s.sameBut (s.setPc w) [.pc] := by
  refine State.sameBut_singleton fun p hp => ?_
  cases p with
  | pc => exact absurd rfl hp
  | _ => simp [State.agreeOn]

theorem State.setDt_sameBut (s : State) (b : Byte) : s.sameBut (s.setDt b) [.dt] := by
  refine State.sameBut_singleton fun p hp => ?_
  cases p with
  | dt => exact absurd rfl hp
  | _ => simp [State.agreeOn]

theorem State.setSt_sameBut (s : State) (b : Byte) : s.sameBut (s.setSt b) [.st] := by
  refine State.sameBut_singleton fun p hp => ?_
  cases p with
  | st => exact absurd rfl hp
  | _ => simp [State.agreeOn]

theorem State.setFsm_sameBut (s : State) (f : Fsm) : s.sameBut (s.setFsm f) [.fsm] := by
  refine State.sameBut_singleton fun p hp => ?_
  cases p with
  | fsm => exact absurd rfl hp
  | _ => simp [State.agreeOn]

theorem State.setDiag_sameBut (s : State) (d : DiagRecord) : s.sameBut (s.setDiag d) [.diag] := by
  refine State.sameBut_singleton fun p hp => ?_
  cases p with
  | diag => exact absurd rfl hp
  | _ => simp [State.agreeOn]

theorem State.raiseAt_sameBut (s : State) (d : Diag) (i : Instr) : s.sameBut (s.raiseAt d i) [.diag] :=
  s.setDiag_sameBut _

theorem State.rejected_sameBut (s : State) (d : Diag) (i : Instr) (c : Bool) :
    s.sameBut ((s.raiseAt d i).haltIf c) [.diag, .fsm] := by
  rw [State.haltIf_eq]
  exact (s.raiseAt_sameBut d i).append (State.setFsm_sameBut _ _)

theorem State.fetched_sameBut (s : State) : s.sameBut s.fetched [.diag, .pc] :=
  (s.setDiag_sameBut _).append (State.setPc_sameBut _ _)

theorem State.guardedCycle_sameBut (s : State) : s.sameBut s.guardedCycle [.diag, .dt, .st] :=
  ((s.setDiag_sameBut _).append (State.setDt_sameBut _ _)).append (State.setSt_sameBut _ _)

theorem State.unknownCycle_sameBut (s : State) (op : Word) : s.sameBut (s.unknownCycle op) [.pc, .diag, .dt, .st] := by
  rw [State.unknownCycle_eq]
  exact (((s.setPc_sameBut _).append (State.setDiag_sameBut _ _)).append (State.setDt_sameBut _ _)).append
    (State.setSt_sameBut _ _)

/-! ### The FSM under the updates of a cycle -/

theorem State.not_halted_of_ready (h : s.fsm = .ready) : ¬ s.fsm = .halted := by simp [h]

@[simp] theorem State.writeBytes_fsm (s : State) (a : Nat) (bs : List Byte) : (s.writeBytes a bs).fsm = s.fsm := by
  rw [State.writeBytes_eq, State.setMem_fsm]

@[simp] theorem State.skipIf_fsm (s : State) (c : Bool) : (s.skipIf c).fsm = s.fsm := by
  rw [State.skipIf_eq, State.setPc_fsm]

@[simp] theorem State.raiseAt_fsm (s : State) (d : Diag) (i : Instr) : (s.raiseAt d i).fsm = s.fsm := rfl

@[simp] theorem State.guardedCycle_fsm (s : State) : s.guardedCycle.fsm = s.fsm := rfl

@[simp] theorem State.unknownCycle_fsm (s : State) (op : Word) : (s.unknownCycle op).fsm = s.fsm := rfl

/-- A rejected CALL or RET halts exactly when the parameters ask for it (60_exceptions.md R278, R279). -/
theorem State.rejected_halted_iff (h : s.fsm = .ready) (d : Diag) (i : Instr) (c : Bool) :
    ((s.raiseAt d i).haltIf c).fsm = .halted ↔ c = true := by
  cases c <;> simp [State.haltIf_eq, h]

/-- The end of a halting cycle: no tick. -/
theorem State.endCycle_of_halted (h : s.fsm = .halted) : s.endCycle = s := by
  rw [State.endCycle_eq, if_neg (by simp [h])]

/-! ### What the execute phase of an instruction with two outcomes can do -/

/-- A rule with one condition answers one of its two states. -/
theorem eq_or_eq_of_ite_next {c : Prop} [Decidable c] {a b : State}
    (h : (if c then .next a else .next b : Result) = .next t) : t = a ∨ t = b := by
  split at h
  · exact .inl (Host.Outcome.next.inj h).symm
  · exact .inr (Host.Outcome.next.inj h).symm

/-- R151: the call is made below 16 entries and rejected at 16. -/
theorem exec_call_cases {nnn : BitVec 12} (h : exec (.call nnn) s = .next t) :
    (s.sp.val < 16 ∧ ∃ v, s.push? s.pc = some v ∧ t = v.setPc (addrOperand nnn)) ∨
    (s.sp.val = 16 ∧ t = (s.raiseAt .stackOverflow (.call nnn)).haltIf s.cfg.stackFaultFatal) := by
  simp only [exec, execCall] at h
  cases hpush : s.push? s.pc with
  | some v =>
    obtain ⟨hsp, -⟩ := s.push?_eq_some.mp hpush
    exact .inl ⟨hsp, v, rfl, by simpa [hpush] using h.symm⟩
  | none => exact .inr ⟨s.push?_eq_none.mp hpush, by simpa [hpush] using h.symm⟩

/-- R152: the return is made from a stack with an entry and rejected on an empty one. -/
theorem exec_ret_cases {ign : BitVec 4} (h : exec (.ret ign) s = .next t) :
    (0 < s.sp.val ∧ ∃ w v, s.pop? = some (w, v) ∧ t = v.setPc w) ∨
    (s.sp.val = 0 ∧
      t = (s.raiseAt .stackUnderflow (.ret ign)).haltIf (s.cfg.testMode || s.cfg.stackFaultFatal)) := by
  simp only [exec, execRet] at h
  cases hpop : s.pop? with
  | some wv =>
    obtain ⟨hsp, -⟩ := s.pop?_eq_some.mp hpop
    exact .inl ⟨hsp, wv.1, wv.2, rfl, by simpa [hpop] using h.symm⟩
  | none => exact .inr ⟨s.pop?_eq_none.mp hpop, by simpa [hpop] using h.symm⟩

/-- R250 and R255: SKP skips by the key its register names, or records that it names none. -/
theorem exec_skp_cases {x : Reg} (h : exec (.skp x) s = .next t) :
    (∃ k, keyIndex? (s.reg x) = some k ∧ t = s.skipIf (s.keyDown k)) ∨
    (keyIndex? (s.reg x) = none ∧ t = s.raiseAt .keyIndexOutOfRange (.skp x)) := by
  simp only [exec, execSkp] at h
  cases hkey : keyIndex? (s.reg x) with
  | some k => exact .inl ⟨k, rfl, by simpa [hkey] using h.symm⟩
  | none => exact .inr ⟨rfl, by simpa [hkey] using h.symm⟩

/-- R251 and R255: SKNP skips by the key its register names, or records that it names none. -/
theorem exec_sknp_cases {x : Reg} (h : exec (.sknp x) s = .next t) :
    (∃ k, keyIndex? (s.reg x) = some k ∧ t = s.skipIf (!s.keyDown k)) ∨
    (keyIndex? (s.reg x) = none ∧ t = s.raiseAt .keyIndexOutOfRange (.sknp x)) := by
  simp only [exec, execSknp] at h
  cases hkey : keyIndex? (s.reg x) with
  | some k => exact .inl ⟨k, rfl, by simpa [hkey] using h.symm⟩
  | none => exact .inr ⟨rfl, by simpa [hkey] using h.symm⟩

/-- R257: LD Vx,K takes the lowest pressed key, or goes back to itself. -/
theorem exec_ldVxK_cases {x : Reg} (h : exec (.ldVxK x) s = .next t) :
    (∃ b, s.lowestKey? = some b ∧ t = s.setReg x b) ∨ (s.lowestKey? = none ∧ t = s.setPc (s.pc - 2)) := by
  simp only [exec, execLdVxK] at h
  cases hkey : s.lowestKey? with
  | some b => exact .inl ⟨b, rfl, by simpa [hkey] using h.symm⟩
  | none => exact .inr ⟨rfl, by simpa [hkey] using h.symm⟩

/-! ### Which instructions halt -/

/-- Every instruction but CALL and RET leaves the FSM alone. -/
theorem exec_fsm {i : Instr} (h : exec i s = .next t) (hcall : ∀ nnn, i ≠ .call nnn)
    (hret : ∀ ign, i ≠ .ret ign) : t.fsm = s.fsm := by
  cases i with
  | call nnn => exact absurd rfl (hcall nnn)
  | ret ign => exact absurd rfl (hret ign)
  | drw | loadRegs => obtain rfl | rfl := eq_or_eq_of_ite_next h <;> rfl
  | ldB | storeRegs => obtain rfl | rfl := eq_or_eq_of_ite_next h <;> simp
  | skp => obtain ⟨k, -, rfl⟩ | ⟨-, rfl⟩ := exec_skp_cases h <;> simp
  | sknp => obtain ⟨k, -, rfl⟩ | ⟨-, rfl⟩ := exec_sknp_cases h <;> simp
  | ldVxK => obtain ⟨b, -, rfl⟩ | ⟨-, rfl⟩ := exec_ldVxK_cases h <;> rfl
  | seByte | sneByte | seReg | sneReg =>
    obtain rfl := Host.Outcome.next.inj h
    exact s.skipIf_fsm _
  | _ =>
    obtain rfl := Host.Outcome.next.inj h
    rfl

/-- R139 for CALL: it halts exactly when it is rejected under `STACK_FAULT_FATAL`, and then it writes the record and the
FSM alone. -/
theorem exec_call_halts {nnn : BitVec 12} (hs : s.fsm = .ready) (h : exec (.call nnn) s = .next t) :
    (t.fsm = .halted ↔ s.sp.val = 16 ∧ s.cfg.stackFaultFatal = true) ∧
    (t.fsm = .halted → s.sameBut t [.diag, .fsm]) := by
  obtain ⟨hsp, v, hv, rfl⟩ | ⟨hsp, rfl⟩ := exec_call_cases h
  · obtain ⟨-, rfl⟩ := s.push?_eq_some.mp hv
    have ready := State.not_halted_of_ready hs
    exact ⟨iff_of_false ready (by omega), fun halted => absurd halted ready⟩
  · exact ⟨by simp [State.rejected_halted_iff hs, hsp], fun _ => s.rejected_sameBut _ _ _⟩

/-- R139 for RET: it halts exactly when it is rejected under `TEST_MODE` or `STACK_FAULT_FATAL`, and then it writes the
record and the FSM alone. -/
theorem exec_ret_halts {ign : BitVec 4} (hs : s.fsm = .ready) (h : exec (.ret ign) s = .next t) :
    (t.fsm = .halted ↔ s.sp.val = 0 ∧ (s.cfg.testMode = true ∨ s.cfg.stackFaultFatal = true)) ∧
    (t.fsm = .halted → s.sameBut t [.diag, .fsm]) := by
  obtain ⟨hsp, w, v, hv, rfl⟩ | ⟨hsp, rfl⟩ := exec_ret_cases h
  · obtain ⟨-, -, rfl⟩ := s.pop?_eq_some.mp hv
    have ready := State.not_halted_of_ready hs
    exact ⟨iff_of_false ready (by omega), fun halted => absurd halted ready⟩
  · exact ⟨by simp [State.rejected_halted_iff hs, hsp], fun _ => s.rejected_sameBut _ _ _⟩

/-- R139: the execute phase halts in a fatal CALL or a fatal RET and nowhere else, and a halt writes the record and the
FSM alone. -/
theorem exec_halts {i : Instr} (hs : s.fsm = .ready) (h : exec i s = .next t) :
    (t.fsm = .halted ↔
      ((∃ nnn, i = .call nnn) ∧ s.sp.val = 16 ∧ s.cfg.stackFaultFatal = true) ∨
      ((∃ ign, i = .ret ign) ∧ s.sp.val = 0 ∧ (s.cfg.testMode = true ∨ s.cfg.stackFaultFatal = true))) ∧
    (t.fsm = .halted → s.sameBut t [.diag, .fsm]) := by
  by_cases hcall : ∃ nnn, i = .call nnn
  · obtain ⟨nnn, rfl⟩ := hcall
    simpa using exec_call_halts hs h
  by_cases hret : ∃ ign, i = .ret ign
  · obtain ⟨ign, rfl⟩ := hret
    simpa using exec_ret_halts hs h
  have ready := State.not_halted_of_ready ((exec_fsm h (not_exists.mp hcall) (not_exists.mp hret)).trans hs)
  exact ⟨iff_of_false ready (not_or.mpr ⟨fun h => hcall h.1, fun h => hret h.1⟩),
    fun halted => absurd halted ready⟩

/-! ### The decoder on group 0 -/

/-- A word of group 0 whose low byte is neither CLS's nor RET's is a SYS (R110, R111). -/
theorem decodeWord_sys {op : Word} (hg : groupOf op = 0) (hcls : (kkOf op).toNat ≠ 0xE0)
    (hret : (kkOf op).toNat ≠ 0xEE) : decodeWord op = .ok (.sys (nnnOf op)) := by
  have word : decodeWord op = .ok (decodeGroup0 op) := by simp only [decodeWord, hg]
  rw [word, decodeGroup0]
  split
  · contradiction
  · contradiction
  · rfl

/-- The word of a SYS is its operand. -/
theorem encode_sys (nnn : BitVec 12) : encode (.sys nnn) = BitVec.ofNat 16 nnn.toNat := by
  rw [encode, addrWord, Nat.zero_mul, Nat.zero_add]

/-! ### Runs and host operations -/

theorem core_run_succ (h : step s = .next t) (k : Nat) : Sys2Proof.core.run (k + 1) s = Sys2Proof.core.run k t := by
  have hcore : Sys2Proof.core.step s = .next t := h
  simp only [Host.Core.run, hcore]

@[simp] theorem State.load_fsm (s : State) (c : Config) (rom : List Byte) : (s.load c rom).1.fsm = .ready := by
  unfold State.load
  split
  · exact State.writeBytes_fsm _ _ _
  · rfl

@[simp] theorem State.restore_fsm (s : State) (image : List Byte) : (s.restore image).1.fsm = s.fsm := by
  unfold State.restore
  split
  · simp [State.restored_eq]
  · rfl

theorem State.hostStep_halted (h : s.fsm = .halted) : s.hostStep = s := by
  rw [State.hostStep, step_halted h]

/-! ### The obligations -/

/-- Settles O9, by induction on the number of steps: each is a guarded cycle, and a guarded cycle keeps the FSM and
`PC`. -/
theorem theFetchGuardHoldsTheCore : Obligations.TheFetchGuardHoldsTheCore := by
  intro k
  induction k with
  | zero =>
    intro s hs hpc
    exact ⟨s.guardedCycle, core_run_succ (step_guarded hs hpc) 0, rfl, toNat_countDown s.dt, toNat_countDown s.st,
      s.guardedCycle_sameBut⟩
  | succ k ih =>
    intro s hs hpc
    obtain ⟨t, hrun, hdiag, hdt, hst, hframe⟩ := ih s.guardedCycle hs hpc
    have dt : s.guardedCycle.dt.toNat = s.dt.toNat - 1 := toNat_countDown s.dt
    have st : s.guardedCycle.st.toNat = s.st.toNat - 1 := toNat_countDown s.st
    exact ⟨t, (core_run_succ (step_guarded hs hpc) (k + 1)).trans hrun, hdiag, by omega, by omega,
      s.guardedCycle_sameBut.trans hframe⟩

/-- Settles O11: operation by operation, `reset` and `load` leave READY and every other keeps the FSM. -/
theorem aHaltedCoreKeepsItsStateUntilReset : Obligations.AHaltedCoreKeepsItsStateUntilReset := by
  refine ⟨fun s => step_halted, fun s op hs => ?_⟩
  cases op with
  | reset c => exact iff_of_true rfl (.inl ⟨c, rfl⟩)
  | load c rom => exact iff_of_true (s.load_fsm c rom) (.inr ⟨c, rom, rfl⟩)
  | step => simp [State.perform, State.hostStep_halted hs, hs]
  | writeKeys | clearDrawFlag | readOutputs | dump | restore =>
    simp [State.perform, State.writeKeys, State.clearDrawFlag, hs]

/-- Settles O16, from the three ways a cycle can go (`step_cases`): a guarded and an unknown cycle stay READY, and an
executed instruction halts as `exec_halts` says. -/
theorem onlyFatalStackFaultsHalt : Obligations.OnlyFatalStackFaultsHalt := by
  intro s t hs h
  obtain ⟨hpc, rfl⟩ | ⟨-, ⟨r, hd⟩, rfl⟩ | ⟨hpc, i, u, hd, hexec, rfl⟩ := step_cases hs h
  case inl =>
    have ready := State.not_halted_of_ready (s.guardedCycle_fsm.trans hs)
    exact ⟨iff_of_false ready (by omega), fun halted => absurd halted ready⟩
  case inr.inl =>
    have ready := State.not_halted_of_ready ((s.unknownCycle_fsm s.fetchWord).trans hs)
    exact ⟨iff_of_false ready (by simp [hd]), fun halted => absurd halted ready⟩
  case inr.inr =>
    obtain ⟨hiff, hframe⟩ := exec_halts (s := s.fetched) hs hexec
    rw [State.endCycle_fsm]
    refine ⟨by simpa [hd, hpc] using hiff, fun halted => ?_⟩
    have frame := hframe halted
    rw [State.endCycle_of_halted halted]
    have pc : u.pc = s.fetched.pc := frame .pc (by decide)
    exact ⟨by rw [pc, State.toNat_fetched_pc s hpc], (s.fetched_sameBut.append frame).mono (by simp)⟩

/-- Settles O8: the cycle without a handler is one update of each of `PC`, the record and the timers. -/
theorem anUnknownWordIsRecordedAndPassedOver : Obligations.AnUnknownWordIsRecordedAndPassedOver := by
  intro s r hs hpc hd
  refine ⟨s.unknownCycle s.fetchWord, step_unknown hs hpc hd, s.toNat_fetched_pc hpc, ?record, toNat_countDown s.dt,
    toNat_countDown s.st, s.unknownCycle_sameBut s.fetchWord⟩
  case record => rw [State.unknownCycle_eq]; rfl

/-- Settles O44: the word of a SYS decodes by its fields, and `exec` only records it. -/
theorem sysOnlyRecordsUnknownOpcode : Obligations.SysOnlyRecordsUnknownOpcode := by
  intro nnn s
  constructor
  · intro hcls hret
    obtain ⟨hg, hnnn, hkk⟩ := fields_addrWord (g := 0) (by decide) nnn
    have kk : (kkOf (addrWord 0 nnn)).toNat = nnn.toNat % 0x100 := by rw [hkk, BitVec.toNat_ofNat]
    have decoded := decodeWord_sys hg (kk ▸ hcls) (kk ▸ hret)
    rwa [hnnn, addrWord, Nat.zero_mul, Nat.zero_add] at decoded
  · refine ⟨s.raiseAt .unknownOpcode (.sys nnn), rfl, s.raiseAt_sameBut _ _, ?_⟩
    rw [State.raiseAt_eq, encode_sys, State.setDiag_diag]

end Sys2Proof.Machine
end

section
/-! The decoder takes back every word the encoder makes (30_encoding.md R106, R110). -/

namespace Sys2Proof

/-- The word of a well-formed instruction decodes to it: the group nibble and the sub-key choose the row, and the fields
give the operands back. -/
theorem decodeWord_encode {i : Instr} (hi : i.wf = true) : decodeWord (encode i) = .ok i := by
  cases i with
  | sys nnn =>
    obtain ⟨hg, hnnn, hkk⟩ := fields_addrWord (g := 0) (by decide) nnn
    have kk : (kkOf (encode (.sys nnn))).toNat = nnn.toNat % 0x100 := by rw [encode, hkk, BitVec.toNat_ofNat]
    have keys : nnn.toNat % 0x100 ≠ 0xE0 ∧ nnn.toNat % 0x100 ≠ 0xEE := by simpa [Instr.wf, sysOperandOk] using hi
    have decoded := Machine.decodeWord_sys hg (kk ▸ keys.1) (kk ▸ keys.2)
    rwa [hnnn] at decoded
  | cls | ret => simp [encode, decodeWord, decodeGroup0, fields_noneWord]
  | jp | call | ldI | jpV0 => simp [encode, decodeWord, fields_addrWord]
  | seByte | sneByte | ldByte | addByte | rnd => simp [encode, decodeWord, fields_regByteWord]
  | seReg | sneReg | drw => simp [encode, decodeWord, fields_regRegWord]
  | ldReg | orReg | andReg | xorReg | addReg | sub | shr | subn | shl =>
    simp [encode, decodeWord, decodeGroup8, fields_regRegWord]
  | skp | sknp => simp [encode, decodeWord, decodeGroupE, fields_regByteWord]
  | ldVxDt | ldVxK | ldDtVx | ldStVx | addI | ldF | ldB | storeRegs | loadRegs =>
    simp [encode, decodeWord, decodeGroupF, fields_regByteWord]

end Sys2Proof
end

section
/-! Control flow (41_flow.md): the jumps, CALL and RET with and without room on the stack, and the register skips. -/

namespace Sys2Proof.Machine

variable {s : State}

/-! ### Operands, frames and reads -/

@[simp] theorem toNat_addrOperand (nnn : BitVec 12) : (addrOperand nnn).toNat = nnn.toNat := by
  have := nnn.isLt
  rw [addrOperand, BitVec.toNat_ofNat, Nat.mod_eq_of_lt (by omega)]

@[simp] theorem toNat_wideOperand (b : Byte) : (wideOperand b).toNat = b.toNat := by
  have := b.isLt
  rw [wideOperand, BitVec.toNat_ofNat, Nat.mod_eq_of_lt (by omega)]

/-- The largest sum is 0x10FE (R157): no wrap. -/
theorem toNat_addrOperand_add_wideOperand (nnn : BitVec 12) (b : Byte) :
    (addrOperand nnn + wideOperand b).toNat = nnn.toNat + b.toNat := by
  have := nnn.isLt
  have := b.isLt
  rw [BitVec.toNat_add, toNat_addrOperand, toNat_wideOperand, Nat.mod_eq_of_lt (by omega)]

theorem State.setStack_sameBut (s : State) (k : Vector Word 16) : s.sameBut (s.setStack k) [.stack] := by
  refine State.sameBut_singleton fun p hp => ?_
  cases p with
  | stack => exact absurd rfl hp
  | _ => simp [State.agreeOn]

theorem State.setSp_sameBut (s : State) (n : Fin 17) : s.sameBut (s.setSp n) [.sp] := by
  refine State.sameBut_singleton fun p hp => ?_
  cases p with
  | sp => exact absurd rfl hp
  | _ => simp [State.agreeOn]

theorem State.skipIf_sameBut (s : State) (c : Bool) : s.sameBut (s.skipIf c) [.pc] := by
  rw [State.skipIf_eq]
  exact s.setPc_sameBut _

theorem State.skipIf_pc (s : State) (c : Bool) : (s.skipIf c).pc = if c then s.pc + 2 else s.pc := by
  rw [State.skipIf_eq, State.setPc_pc]

theorem State.rejected_diag (s : State) (d : Diag) (i : Instr) (c : Bool) :
    ((s.raiseAt d i).haltIf c).diag = { valid := true, code := d, pc := s.pc - 2, opcode := encode i } := by
  rw [State.haltIf_eq, State.setFsm_diag, State.raiseAt_eq, State.setDiag_diag]

theorem State.rejected_fsm (s : State) (d : Diag) (i : Instr) (c : Bool) :
    ((s.raiseAt d i).haltIf c).fsm = if c then .halted else s.fsm := by
  rw [State.haltIf_eq, State.setFsm_fsm, State.raiseAt_fsm]

theorem getElem_set_stack (k : Vector Word 16) {n : Nat} (hn : n < 16) (w : Word) (j : Fin 16) :
    (k.set n w)[j] = if j.val = n then w else k[j] := by
  simp only [Fin.getElem_fin, Vector.getElem_set, eq_comm]

/-! ### The execute phase of CALL, RET and the skips -/

/-- The state a call with room on the stack leaves (R151). -/
def State.called (s : State) (hsp : s.sp.val < 16) (nnn : BitVec 12) : State :=
  ((s.setStack (s.stack.set s.sp.val s.pc)).setSp ⟨s.sp.val + 1, by omega⟩).setPc (addrOperand nnn)

theorem exec_call_of_lt (hsp : s.sp.val < 16) (nnn : BitVec 12) :
    exec (.call nnn) s = .next (s.called hsp nnn) := by
  have push := (s.push?_eq_some (w := s.pc)).mpr ⟨hsp, rfl⟩
  simp only [exec, execCall, push, State.called]

theorem exec_call_of_full (hsp : s.sp.val = 16) (nnn : BitVec 12) :
    exec (.call nnn) s = .next ((s.raiseAt .stackOverflow (.call nnn)).haltIf s.cfg.stackFaultFatal) := by
  have push := (s.push?_eq_none (w := s.pc)).mpr hsp
  simp only [exec, execCall, push]

theorem State.called_sameBut (s : State) (hsp : s.sp.val < 16) (nnn : BitVec 12) :
    s.sameBut (s.called hsp nnn) [.pc, .sp, .stack] :=
  (((s.setStack_sameBut _).append (State.setSp_sameBut _ _)).append (State.setPc_sameBut _ _)).mono (by simp)

/-- The state a return to entry `j` leaves (R152). -/
def State.returned (s : State) (j : Fin 16) : State := (s.setSp j.castSucc).setPc s.stack[j]

theorem exec_ret_of_succ {j : Fin 16} (hsp : s.sp.val = j.val + 1) (ign : BitVec 4) :
    exec (.ret ign) s = .next (s.returned j) := by
  have pop : s.pop? = some (s.stack[j], s.setSp j.castSucc) := by
    refine s.pop?_eq_some.mpr ⟨by omega, ?_, congrArg s.setSp (Fin.ext ?_)⟩ <;> simp [hsp]
  simp only [exec, execRet, pop, State.returned]

theorem exec_ret_of_empty (hsp : s.sp.val = 0) (ign : BitVec 4) :
    exec (.ret ign) s =
      .next ((s.raiseAt .stackUnderflow (.ret ign)).haltIf (s.cfg.testMode || s.cfg.stackFaultFatal)) := by
  have pop := s.pop?_eq_none.mpr hsp
  simp only [exec, execRet, pop]

theorem State.returned_sameBut (s : State) (j : Fin 16) : s.sameBut (s.returned j) [.pc, .sp] :=
  ((s.setSp_sameBut _).append (State.setPc_sameBut _ _)).mono (by simp)

/-- R159: what an instruction that skips by `p` does. -/
theorem exec_skip {i : Instr} {c : Bool} {p : Prop} [Decidable p] (h : exec i s = .next (s.skipIf c))
    (hc : c = true ↔ p) :
    ∃ t, exec i s = .next t ∧ t.pc = (if p then s.pc + 2 else s.pc) ∧ s.sameBut t [.pc] :=
  ⟨s.skipIf c, h, by simp only [State.skipIf_pc, hc], s.skipIf_sameBut c⟩

/-! ### The obligations -/

/-- Settles O22: the call is pushed below 16 entries and rejected at 16, as `State.push?` answers. -/
theorem callPushesTheReturnAddressOrIsDropped : Obligations.CallPushesTheReturnAddressOrIsDropped := by
  intro nnn s
  refine ⟨decodeWord_encode (i := .call nnn) rfl, fun hsp => ?pushed, fun hsp => ?dropped⟩
  case pushed =>
    exact ⟨s.called hsp nnn, exec_call_of_lt hsp nnn, rfl, toNat_addrOperand nnn, getElem_set_stack s.stack hsp s.pc,
      s.called_sameBut hsp nnn⟩
  case dropped =>
    exact ⟨_, exec_call_of_full hsp nnn, s.rejected_diag _ _ _, s.rejected_fsm _ _ _, s.rejected_sameBut _ _ _⟩

/-- Settles O23: the return reads the entry below `sp`, and is rejected on an empty stack, as `State.pop?` answers. -/
theorem retPopsOrUnderflows : Obligations.RetPopsOrUnderflows := by
  intro ign s
  refine ⟨decodeWord_encode (i := .ret ign) rfl, fun j hsp => ?popped, fun hsp => ?underflow⟩
  case popped => exact ⟨s.returned j, exec_ret_of_succ hsp ign, rfl, rfl, s.returned_sameBut j⟩
  case underflow =>
    refine ⟨_, exec_ret_of_empty hsp ign, s.rejected_diag _ _ _, ?_, s.rejected_sameBut _ _ _⟩
    simp only [State.rejected_fsm, Bool.or_eq_true]

/-- Settles O21: each jump is one update of `PC`, and its target keeps its value in 16 bits. -/
theorem jumpsSetThePc : Obligations.JumpsSetThePc := by
  intro nnn s
  exact ⟨decodeWord_encode (i := .jp nnn) rfl, decodeWord_encode (i := .jpV0 nnn) rfl,
    ⟨_, rfl, toNat_addrOperand nnn, s.setPc_sameBut _⟩,
    ⟨_, rfl, toNat_addrOperand_add_wideOperand nnn (s.reg 0), s.setPc_sameBut _⟩⟩

/-- Settles O25: each of the four is a skip by its comparison. -/
theorem conditionalSkipsAdvanceThePc : Obligations.ConditionalSkipsAdvanceThePc := by
  intro x y kk n s
  exact ⟨decodeWord_encode (i := .seByte x kk) rfl, decodeWord_encode (i := .sneByte x kk) rfl,
    decodeWord_encode (i := .seReg x y n) rfl, decodeWord_encode (i := .sneReg x y n) rfl,
    exec_skip rfl beq_iff_eq, exec_skip rfl bne_iff_ne, exec_skip rfl beq_iff_eq, exec_skip rfl bne_iff_ne⟩

end Sys2Proof.Machine
end

section
/-! Register arithmetic and logic (42_alu.md): each instruction is one register write, with the flag after it where there
is one, of a result that is arithmetic on unsigned values. -/

namespace Sys2Proof.Machine

variable {s : State}

/-! ### Words of group 0x8 -/

/-- A word of group 0x8 with its sub-key `n` written into the group's base, as the opcode map lists it (R110). -/
theorem regRegWord_group8 (x y : Reg) (n : BitVec 4) :
    BitVec.ofNat 16 (0x8000 + n.toNat + x.val * 0x100 + y.val * 0x10) = regRegWord 0x8 x y n :=
  congrArg (BitVec.ofNat 16) (by omega)

theorem decodeWord_group8 {i : Instr} {x y : Reg} {n : BitVec 4} (hi : i.wf = true)
    (hn : encode i = regRegWord 0x8 x y n) :
    decodeWord (BitVec.ofNat 16 (0x8000 + n.toNat + x.val * 0x100 + y.val * 0x10)) = .ok i := by
  rw [regRegWord_group8, ← hn, decodeWord_encode hi]

/-! ### Frames of the register writes -/

theorem State.setV_sameBut (s : State) (v : Vector Byte 16) : s.sameBut (s.setV v) [.regs] := by
  refine State.sameBut_singleton fun p hp => ?_
  cases p with
  | regs => exact absurd rfl hp
  | _ => simp [State.agreeOn]

theorem State.setReg_sameBut (s : State) (x : Reg) (b : Byte) : s.sameBut (s.setReg x b) [.regs] :=
  s.setV_sameBut _

theorem State.setRegFlag_sameBut (s : State) (x : Reg) (result flag : Byte) :
    s.sameBut (s.setRegFlag x result flag) [.regs] := by
  rw [State.setRegFlag_eq]
  exact s.setV_sameBut _

/-! ### Results and flags as numbers -/

theorem State.toNat_setReg_reg (s : State) (x : Reg) (b : Byte) (r : Reg) :
    ((s.setReg x b).reg r).toNat = if r = x then b.toNat else (s.reg r).toNat := by
  rw [State.setReg_reg, apply_ite BitVec.toNat]

theorem State.toNat_setRegFlag_reg (s : State) (x : Reg) (result flag : Byte) (r : Reg) :
    ((s.setRegFlag x result flag).reg r).toNat =
      if r = vF then flag.toNat else if r = x then result.toNat else (s.reg r).toNat := by
  rw [State.setRegFlag_reg, apply_ite BitVec.toNat, apply_ite BitVec.toNat]

/-- R191: a flag is 0 or 1 exactly. -/
theorem toNat_flagByte (c : Bool) : (flagByte c).toNat = if c then 1 else 0 := by
  cases c <;> rfl

theorem toNat_sumByte (a b : Byte) : (sumByte a b).toNat = (a.toNat + b.toNat) % 256 :=
  BitVec.toNat_ofNat _ _

theorem toNat_carryFlag (a b : Byte) : (carryFlag a b).toNat = if a.toNat + b.toNat > 255 then 1 else 0 := by
  simp only [carryFlag, toNat_flagByte, decide_eq_true_eq]

theorem toNat_noBorrowFlag (a b : Byte) : (noBorrowFlag a b).toNat = if a.toNat > b.toNat then 1 else 0 := by
  simp only [noBorrowFlag, toNat_flagByte, decide_eq_true_eq]

theorem toNat_differenceByte (a b : Byte) :
    ((differenceByte a b).toNat : Int) = ((a.toNat : Int) - b.toNat) % 256 := by
  rw [differenceByte, BitVec.toNat_ofInt]
  exact Int.toNat_of_nonneg (Int.emod_nonneg _ (by decide))

/-! ### The execute phase of the instructions that write a register -/

/-- R180 to R185: what an instruction that writes one register and no flag does. -/
theorem exec_setReg {i : Instr} {x : Reg} {b : Byte} (h : exec i s = .next (s.setReg x b)) :
    ∃ t, exec i s = .next t ∧ (∀ r, t.reg r = if r = x then b else s.reg r) ∧ s.sameBut t [.regs] :=
  ⟨s.setReg x b, h, s.setReg_reg x b, s.setReg_sameBut x b⟩

/-- R187 and R189: what an instruction that subtracts `b` from `a` into register `x` does. -/
theorem exec_difference {i : Instr} {x : Reg} {a b : Byte}
    (h : exec i s = .next (s.setRegFlag x (differenceByte a b) (noBorrowFlag a b))) :
    ∃ t, exec i s = .next t ∧ s.sameBut t [.regs] ∧
      ∀ r, ((t.reg r).toNat : Int) =
        if r = 15 then (if a.toNat > b.toNat then 1 else 0)
        else if r = x then ((a.toNat : Int) - b.toNat) % 256
        else (s.reg r).toNat := by
  refine ⟨_, h, s.setRegFlag_sameBut _ _ _, fun r => ?_⟩
  rw [State.toNat_setRegFlag_reg, toNat_noBorrowFlag]
  push_cast
  rw [toNat_differenceByte]

/-! ### The obligations -/

/-- Settles O28: the sum goes to `V[x]` and the carry to `VF` after it, so at `x` = 15 the carry remains. -/
theorem addSetsSumAndCarry : Obligations.AddSetsSumAndCarry := by
  intro x y s
  refine ⟨decodeWord_group8 (i := .addReg x y) (n := 0x4) rfl rfl, _, rfl, s.setRegFlag_sameBut _ _ _, fun r => ?_⟩
  rw [State.toNat_setRegFlag_reg, toNat_sumByte, toNat_carryFlag]

/-- Settles O29: SUB and SUBN are one subtraction with its operands exchanged. -/
theorem subAndSubnSetDifferenceAndNoBorrow : Obligations.SubAndSubnSetDifferenceAndNoBorrow := by
  intro x y s
  exact ⟨decodeWord_group8 (i := .sub x y) (n := 0x5) rfl rfl, decodeWord_group8 (i := .subn x y) (n := 0x7) rfl rfl,
    exec_difference rfl, exec_difference rfl⟩

/-- Settles O26: each is one register write, and the sum is reduced modulo 256 with no carry. -/
theorem immediateLoadAndAddWriteOnlyTheirRegister : Obligations.ImmediateLoadAndAddWriteOnlyTheirRegister := by
  intro x kk s
  refine ⟨decodeWord_encode (i := .ldByte x kk) rfl, decodeWord_encode (i := .addByte x kk) rfl, exec_setReg rfl,
    _, rfl, fun r => ?_, s.setReg_sameBut _ _⟩
  rw [State.toNat_setReg_reg, toNat_sumByte]

/-- Settles O27: each of the four is one register write. -/
theorem copyAndBitwiseOperationsWriteOnlyTheirRegister :
    Obligations.CopyAndBitwiseOperationsWriteOnlyTheirRegister := by
  intro x y s
  exact ⟨decodeWord_group8 (i := .ldReg x y) (n := 0x0) rfl rfl, decodeWord_group8 (i := .orReg x y) (n := 0x1) rfl rfl,
    decodeWord_group8 (i := .andReg x y) (n := 0x2) rfl rfl, decodeWord_group8 (i := .xorReg x y) (n := 0x3) rfl rfl,
    exec_setReg rfl, exec_setReg rfl, exec_setReg rfl, exec_setReg rfl⟩

end Sys2Proof.Machine
end

section
/-! The index register and the transfers through it (43_index_memory.md): each instruction that sets `I` is one update of
it; each transfer is whole, or is rejected whole with a record of its word. -/

namespace Sys2Proof.Machine

variable {s : State}

/-! ### Words of group 0xF -/

/-- A word of group 0xF with its sub-key `kk` written into the group's base, as the opcode map lists it (R110). -/
theorem regByteWord_groupF (x : Reg) (kk : Byte) :
    BitVec.ofNat 16 (0xF000 + kk.toNat + x.val * 0x100) = regByteWord 0xF x kk :=
  congrArg (BitVec.ofNat 16) (by omega)

theorem decodeWord_groupF {i : Instr} {x : Reg} {kk : Byte} (hi : i.wf = true) (hkk : encode i = regByteWord 0xF x kk) :
    decodeWord (BitVec.ofNat 16 (0xF000 + kk.toNat + x.val * 0x100)) = .ok i := by
  rw [regByteWord_groupF, ← hkk, decodeWord_encode hi]

/-! ### Frames and reads -/

theorem State.setIdx_sameBut (s : State) (w : Word) : s.sameBut (s.setIdx w) [.idx] := by
  refine State.sameBut_singleton fun p hp => ?_
  cases p with
  | idx => exact absurd rfl hp
  | _ => simp [State.agreeOn]

theorem State.setMem_sameBut (s : State) (m : Memory) : s.sameBut (s.setMem m) [.mem] := by
  refine State.sameBut_singleton fun p hp => ?_
  cases p with
  | mem => exact absurd rfl hp
  | _ => simp [State.agreeOn]

theorem State.writeBytes_sameBut (s : State) (a : Nat) (bs : List Byte) : s.sameBut (s.writeBytes a bs) [.mem] := by
  rw [State.writeBytes_eq]
  exact s.setMem_sameBut _

theorem State.loadUpTo_sameBut (s : State) (x : Reg) : s.sameBut (s.loadUpTo x) [.regs] := s.setV_sameBut _

/-- The byte written at `a + j` is entry `j` of the list. -/
theorem State.readByte_writeBytes_add (hwf : Memory.wf s.cfg s.mem = true) {a j : Nat} {bs : List Byte}
    (ha : a + bs.length ≤ memSize) (hj : j < bs.length) : (s.writeBytes a bs).readByte (a + j) = bs.getD j 0 := by
  rw [State.readByte_writeBytes hwf a bs (a + j) ha, if_pos (by omega), Nat.add_sub_cancel_left]

/-! ### Values as numbers -/

theorem length_bcdDigits (b : Byte) : (bcdDigits b).length = 3 := rfl

/-- R213: no digit is cut by its byte. -/
theorem toNat_bcdDigits (b : Byte) :
    ((bcdDigits b).getD 0 0).toNat = b.toNat / 100 ∧ ((bcdDigits b).getD 1 0).toNat = b.toNat / 10 % 10 ∧
      ((bcdDigits b).getD 2 0).toNat = b.toNat % 10 := by
  have := b.isLt
  refine ⟨?_, ?_, ?_⟩ <;> exact Nat.mod_eq_of_lt (by omega)

/-- R212: five times a byte fits in 16 bits. -/
theorem toNat_glyphAddress (b : Byte) : (BitVec.ofNat 16 (b.toNat * 5)).toNat = b.toNat * 5 := by
  have := b.isLt
  rw [BitVec.toNat_ofNat, Nat.mod_eq_of_lt (by omega)]

/-- R211: the sum is reduced modulo 65536. -/
theorem toNat_add_wideOperand (w : Word) (b : Byte) : (w + wideOperand b).toNat = (w.toNat + b.toNat) % 65536 := by
  rw [BitVec.toNat_add, toNat_wideOperand]

/-! ### The execute phase of the transfers -/

theorem exec_ldB_of_le (h : s.idx.toNat + 2 ≤ 4095) (x : Reg) :
    exec (.ldB x) s = .next (s.writeBytes s.idx.toNat (bcdDigits (s.reg x))) :=
  if_pos ((s.inBounds_iff 3).mpr (by omega))

theorem exec_ldB_of_gt (h : s.idx.toNat + 2 > 4095) (x : Reg) :
    exec (.ldB x) s = .next (s.raiseAt .memOutOfBounds (.ldB x)) :=
  if_neg (mt (s.inBounds_iff 3).mp (by omega))

theorem exec_storeRegs_of_le {x : Reg} (h : s.idx.toNat + x.val ≤ 4095) :
    exec (.storeRegs x) s = .next (s.writeBytes s.idx.toNat (s.regsUpTo x)) :=
  if_pos ((s.inBounds_iff (x.val + 1)).mpr (by omega))

theorem exec_storeRegs_of_gt {x : Reg} (h : s.idx.toNat + x.val > 4095) :
    exec (.storeRegs x) s = .next (s.raiseAt .memOutOfBounds (.storeRegs x)) :=
  if_neg (mt (s.inBounds_iff (x.val + 1)).mp (by omega))

theorem exec_loadRegs_of_le {x : Reg} (h : s.idx.toNat + x.val ≤ 4095) :
    exec (.loadRegs x) s = .next (s.loadUpTo x) :=
  if_pos ((s.inBounds_iff (x.val + 1)).mpr (by omega))

theorem exec_loadRegs_of_gt {x : Reg} (h : s.idx.toNat + x.val > 4095) :
    exec (.loadRegs x) s = .next (s.raiseAt .memOutOfBounds (.loadRegs x)) :=
  if_neg (mt (s.inBounds_iff (x.val + 1)).mp (by omega))

/-- R213 and R214: what an instruction that stores the bytes `bs` from `I` on does. -/
theorem exec_store {i : Instr} {bs : List Byte} (h : exec i s = .next (s.writeBytes s.idx.toNat bs))
    (hwf : Memory.wf s.cfg s.mem = true) (hfit : s.idx.toNat + bs.length ≤ 4096) :
    ∃ t, exec i s = .next t ∧ s.sameBut t [.mem] ∧
      (∀ j, j < bs.length → t.readByte (s.idx.toNat + j) = bs.getD j 0) ∧
      (∀ a, a < s.idx.toNat ∨ s.idx.toNat + bs.length ≤ a → t.readByte a = s.readByte a) :=
  ⟨_, h, s.writeBytes_sameBut _ _, fun _ hj => State.readByte_writeBytes_add hwf hfit hj,
    fun a => s.readByte_writeBytes_other _ bs a⟩

/-- R216: what a transfer rejected for its bounds does. -/
theorem exec_memOutOfBounds {i : Instr} {x : Reg} {kk : Byte} (h : exec i s = .next (s.raiseAt .memOutOfBounds i))
    (hkk : encode i = regByteWord 0xF x kk) :
    ∃ t, exec i s = .next t ∧ s.sameBut t [.diag] ∧
      t.diag = { valid := true, code := .memOutOfBounds, pc := s.pc - 2,
                 opcode := BitVec.ofNat 16 (0xF000 + kk.toNat + x.val * 0x100) } := by
  refine ⟨_, h, s.raiseAt_sameBut _ _, ?_⟩
  rw [regByteWord_groupF, ← hkk, State.raiseAt_eq, State.setDiag_diag]

/-! ### The obligations -/

/-- Settles O33: the store of the three digits, or its rejection. -/
theorem ldBStoresTheDecimalDigits : Obligations.LdBStoresTheDecimalDigits := by
  intro x s
  refine ⟨decodeWord_groupF (i := .ldB x) (kk := 0x33) rfl rfl, fun hwf hfit => ?stored, fun hout => ?rejected⟩
  case stored =>
    have length := length_bcdDigits (s.reg x)
    obtain ⟨t, ht, hframe, hin, hother⟩ := exec_store (exec_ldB_of_le hfit x) hwf (by omega)
    rw [length] at hin hother
    obtain ⟨hundreds, tens, ones⟩ := toNat_bcdDigits (s.reg x)
    refine ⟨t, ht, hframe, ?_, ?_, ?_, hother⟩
    · exact (congrArg BitVec.toNat (hin 0 (by decide))).trans hundreds
    · exact (congrArg BitVec.toNat (hin 1 (by decide))).trans tens
    · exact (congrArg BitVec.toNat (hin 2 (by decide))).trans ones
  case rejected => exact exec_memOutOfBounds (kk := 0x33) (exec_ldB_of_gt hout x) rfl

/-- Settles O34: the store of the register range, or its rejection. -/
theorem registerDumpStoresTheRange : Obligations.RegisterDumpStoresTheRange := by
  intro x s
  refine ⟨decodeWord_groupF (i := .storeRegs x) (kk := 0x55) rfl rfl, fun hwf hfit => ?stored, fun hout => ?rejected⟩
  case stored =>
    have length := s.length_regsUpTo x
    obtain ⟨t, ht, hframe, hin, hother⟩ := exec_store (exec_storeRegs_of_le hfit) hwf (by omega)
    rw [length] at hin hother
    exact ⟨t, ht, hframe, fun r hr => (hin r.val (Nat.lt_succ_of_le hr)).trans (s.getD_regsUpTo x r hr), hother⟩
  case rejected => exact exec_memOutOfBounds (kk := 0x55) (exec_storeRegs_of_gt hout) rfl

/-- Settles O35: the load of the register range, or its rejection. -/
theorem registerLoadReadsTheRange : Obligations.RegisterLoadReadsTheRange := by
  intro x s
  exact ⟨decodeWord_groupF (i := .loadRegs x) (kk := 0x65) rfl rfl,
    fun hfit => ⟨_, exec_loadRegs_of_le hfit, s.loadUpTo_sameBut x, s.loadUpTo_reg x⟩,
    fun hout => exec_memOutOfBounds (kk := 0x65) (exec_loadRegs_of_gt hout) rfl⟩

/-- Settles O32: each of the three is one update of `I`, whose value is a number below 65536 or reduced to one. -/
theorem indexInstructionsSetI : Obligations.IndexInstructionsSetI := by
  intro x nnn s
  exact ⟨decodeWord_encode (i := .ldI nnn) rfl, decodeWord_groupF (i := .addI x) (kk := 0x1E) rfl rfl,
    decodeWord_groupF (i := .ldF x) (kk := 0x29) rfl rfl,
    ⟨_, rfl, toNat_addrOperand nnn, s.setIdx_sameBut _⟩,
    ⟨_, rfl, toNat_add_wideOperand s.idx (s.reg x), s.setIdx_sameBut _⟩,
    ⟨_, rfl, toNat_glyphAddress (s.reg x), s.setIdx_sameBut _⟩⟩

end Sys2Proof.Machine
end

section
/-! Clearing the display (44_display.md R230): CLS blanks the framebuffer and sets the draw flag, whatever they held. -/

namespace Sys2Proof.Machine

theorem State.setFb_sameBut (s : State) (f : Framebuffer) : s.sameBut (s.setFb f) [.fb] := by
  refine State.sameBut_singleton fun p hp => ?_
  cases p with
  | fb => exact absurd rfl hp
  | _ => simp [State.agreeOn]

/-- The state CLS leaves (R230). -/
def State.cleared (s : State) : State := (s.setFb (Vector.replicate 32 0)).setDrawFlag true

theorem exec_cls (ign : BitVec 4) (s : State) : exec (.cls ign) s = .next s.cleared := rfl

/-- The framebuffer CLS leaves is the one a reset leaves. -/
theorem State.cleared_pixel (s : State) (x : Fin 64) (y : Fin 32) : s.cleared.pixel x y = false :=
  s.hostReset_pixel s.cfg x y

theorem State.cleared_sameBut (s : State) : s.sameBut s.cleared [.fb, .drawFlag] :=
  (s.setFb_sameBut _).append (State.setDrawFlag_sameBut _ _)

/-- Settles O37: every CLS, for any ignored bits, leaves the cleared state. -/
theorem clsZeroesTheFramebuffer : Obligations.ClsZeroesTheFramebuffer := by
  intro ign s
  exact ⟨decodeWord_encode (i := .cls ign) rfl, s.cleared, exec_cls ign s, s.cleared_pixel, rfl, s.cleared_sameBut⟩

end Sys2Proof.Machine
end

section
/-! The timers and the keypad (45_timers_keys.md): what each of their instructions writes, and the one tick that ends
every cycle but a halting one.  That no other instruction touches a timer is read off the frame of the execute phase
(`exec_sameBut`), proved here for all 35 instructions. -/

namespace Sys2Proof.Machine

variable {s t : State} {i : Instr}

/-! ### Words of group 0xE -/

/-- A word of group 0xE with its sub-key `kk` written into the group's base, as the opcode map lists it (R110). -/
theorem regByteWord_groupE (x : Reg) (kk : Byte) :
    BitVec.ofNat 16 (0xE000 + kk.toNat + x.val * 0x100) = regByteWord 0xE x kk :=
  congrArg (BitVec.ofNat 16) (by omega)

theorem decodeWord_groupE {x : Reg} {kk : Byte} (hi : i.wf = true) (hkk : encode i = regByteWord 0xE x kk) :
    decodeWord (BitVec.ofNat 16 (0xE000 + kk.toNat + x.val * 0x100)) = .ok i := by
  rw [regByteWord_groupE, ← hkk, decodeWord_encode hi]

/-! ### The execute phase of the key instructions -/

theorem exec_skp_of_key {x : Reg} {k : Fin 16} (hk : (s.reg x).toNat = k.val) :
    exec (.skp x) s = .next (s.skipIf (s.keyDown k)) := by
  simp only [exec, execSkp, keyIndex?_eq_some.mpr hk]

theorem exec_skp_of_gt {x : Reg} (hx : (s.reg x).toNat > 15) :
    exec (.skp x) s = .next (s.raiseAt .keyIndexOutOfRange (.skp x)) := by
  simp only [exec, execSkp, keyIndex?_eq_none.mpr hx]

theorem exec_sknp_of_key {x : Reg} {k : Fin 16} (hk : (s.reg x).toNat = k.val) :
    exec (.sknp x) s = .next (s.skipIf (!s.keyDown k)) := by
  simp only [exec, execSknp, keyIndex?_eq_some.mpr hk]

theorem exec_sknp_of_gt {x : Reg} (hx : (s.reg x).toNat > 15) :
    exec (.sknp x) s = .next (s.raiseAt .keyIndexOutOfRange (.sknp x)) := by
  simp only [exec, execSknp, keyIndex?_eq_none.mpr hx]

/-- R255: what a key skip rejected for its index does. -/
theorem exec_keyIndexOutOfRange {x : Reg} {kk : Byte} (h : exec i s = .next (s.raiseAt .keyIndexOutOfRange i))
    (hkk : encode i = regByteWord 0xE x kk) :
    ∃ t, exec i s = .next t ∧ s.sameBut t [.diag] ∧
      t.diag = { valid := true, code := .keyIndexOutOfRange, pc := s.pc - 2,
                 opcode := BitVec.ofNat 16 (0xE000 + kk.toNat + x.val * 0x100) } := by
  refine ⟨_, h, s.raiseAt_sameBut _ _, ?_⟩
  rw [regByteWord_groupE, ← hkk, State.raiseAt_eq, State.setDiag_diag]

theorem exec_ldVxK_of_lowest {k : Fin 16} (hk : s.keyDown k = true)
    (hlow : ∀ j : Fin 16, j < k → s.keyDown j = false) (x : Reg) :
    exec (.ldVxK x) s = .next (s.setReg x (BitVec.ofNat 8 k.val)) := by
  simp only [exec, execLdVxK, s.lowestKey?_eq_some hk hlow]

theorem exec_ldVxK_of_none (hnone : ∀ k : Fin 16, s.keyDown k = false) (x : Reg) :
    exec (.ldVxK x) s = .next (s.setPc (s.pc - 2)) := by
  simp only [exec, execLdVxK, s.lowestKey?_eq_none.mpr hnone]

/-- A key number fits in a byte. -/
theorem toNat_keyByte (k : Fin 16) : (BitVec.ofNat 8 k.val).toNat = k.val :=
  Nat.mod_eq_of_lt (by omega)

/-! ### The frame of the execute phase -/

theorem State.drawn_sameBut (s : State) (d : Framebuffer × Bool) : s.sameBut (s.drawn d) [.fb, .regs, .drawFlag] :=
  ((s.setFb_sameBut _).append (State.setReg_sameBut _ _ _)).append (State.setDrawFlag_sameBut _ _)

/-- A CALL writes what its push and its jump write, or what its rejection writes. -/
theorem exec_call_sameBut {nnn : BitVec 12} (h : exec (.call nnn) s = .next t) :
    s.sameBut t [.pc, .sp, .stack, .diag, .fsm] := by
  obtain ⟨-, v, hv, rfl⟩ | ⟨-, rfl⟩ := exec_call_cases h
  · obtain ⟨hsp, rfl⟩ := s.push?_eq_some.mp hv
    exact (s.called_sameBut hsp nnn).mono (by simp)
  · exact (s.rejected_sameBut _ _ _).mono (by simp)

/-- A RET writes what its pop and its jump write, or what its rejection writes. -/
theorem exec_ret_sameBut {ign : BitVec 4} (h : exec (.ret ign) s = .next t) :
    s.sameBut t [.pc, .sp, .diag, .fsm] := by
  obtain ⟨-, w, v, hv, rfl⟩ | ⟨-, rfl⟩ := exec_ret_cases h
  · obtain ⟨-, -, rfl⟩ := s.pop?_eq_some.mp hv
    exact ((s.setSp_sameBut _).append (State.setPc_sameBut _ _)).mono (by simp)
  · exact (s.rejected_sameBut _ _ _).mono (by simp)

/-- The execute phase writes at most the parts its instruction's rule names. -/
theorem exec_sameBut (h : exec i s = .next t) : s.sameBut t (mayWrite i) := by
  cases i with
  | call => exact exec_call_sameBut h
  | ret => exact exec_ret_sameBut h
  | skp =>
    obtain ⟨k, -, rfl⟩ | ⟨-, rfl⟩ := exec_skp_cases h
    · exact (s.skipIf_sameBut _).mono (by simp [mayWrite])
    · exact (s.raiseAt_sameBut _ _).mono (by simp [mayWrite])
  | sknp =>
    obtain ⟨k, -, rfl⟩ | ⟨-, rfl⟩ := exec_sknp_cases h
    · exact (s.skipIf_sameBut _).mono (by simp [mayWrite])
    · exact (s.raiseAt_sameBut _ _).mono (by simp [mayWrite])
  | ldVxK =>
    obtain ⟨b, -, rfl⟩ | ⟨-, rfl⟩ := exec_ldVxK_cases h
    · exact (s.setReg_sameBut _ _).mono (by simp [mayWrite])
    · exact (s.setPc_sameBut _).mono (by simp [mayWrite])
  | drw =>
    obtain rfl | rfl := eq_or_eq_of_ite_next h
    · exact (s.drawn_sameBut _).mono (by simp [mayWrite])
    · exact ((s.setReg_sameBut _ _).append (State.raiseAt_sameBut _ _ _)).mono (by simp [mayWrite])
  | ldB | storeRegs =>
    obtain rfl | rfl := eq_or_eq_of_ite_next h
    · exact (s.writeBytes_sameBut _ _).mono (by simp [mayWrite])
    · exact (s.raiseAt_sameBut _ _).mono (by simp [mayWrite])
  | loadRegs =>
    obtain rfl | rfl := eq_or_eq_of_ite_next h
    · exact (s.loadUpTo_sameBut _).mono (by simp [mayWrite])
    · exact (s.raiseAt_sameBut _ _).mono (by simp [mayWrite])
  | sys => obtain rfl := Host.Outcome.next.inj h; exact s.raiseAt_sameBut _ _
  | cls => obtain rfl := Host.Outcome.next.inj h; exact s.cleared_sameBut
  | jp | jpV0 => obtain rfl := Host.Outcome.next.inj h; exact s.setPc_sameBut _
  | seByte | sneByte | seReg | sneReg => obtain rfl := Host.Outcome.next.inj h; exact s.skipIf_sameBut _
  | ldByte | addByte | ldReg | orReg | andReg | xorReg | ldVxDt =>
    obtain rfl := Host.Outcome.next.inj h
    exact s.setReg_sameBut _ _
  | addReg | sub | shr | subn | shl => obtain rfl := Host.Outcome.next.inj h; exact s.setRegFlag_sameBut _ _ _
  | rnd =>
    obtain rfl := Host.Outcome.next.inj h
    exact (s.setReg_sameBut _ _).append (State.setDraws_sameBut _ _)
  | ldI | addI | ldF => obtain rfl := Host.Outcome.next.inj h; exact s.setIdx_sameBut _
  | ldDtVx => obtain rfl := Host.Outcome.next.inj h; exact s.setDt_sameBut _
  | ldStVx => obtain rfl := Host.Outcome.next.inj h; exact s.setSt_sameBut _

/-! ### The timers in one cycle -/

/-- R253: one instruction writes `DT`. -/
theorem dt_mem_mayWrite : Part.dt ∈ mayWrite i ↔ ∃ x, i = .ldDtVx x := by
  cases i <;> simp [mayWrite]

/-- R254: one instruction writes `ST`. -/
theorem st_mem_mayWrite : Part.st ∈ mayWrite i ↔ ∃ x, i = .ldStVx x := by
  cases i <;> simp [mayWrite]

theorem exec_dt (h : exec i s = .next t) (hi : ∀ x, i ≠ .ldDtVx x) : t.dt = s.dt :=
  exec_sameBut h .dt (mt dt_mem_mayWrite.mp (not_exists.mpr hi))

theorem exec_st (h : exec i s = .next t) (hi : ∀ x, i ≠ .ldStVx x) : t.st = s.st :=
  exec_sameBut h .st (mt st_mem_mayWrite.mp (not_exists.mpr hi))

theorem exec_ldDtVx_dt {x : Reg} (h : exec (.ldDtVx x) s = .next t) : t.dt = s.reg x := by
  obtain rfl := Host.Outcome.next.inj h
  rfl

theorem exec_ldStVx_st {x : Reg} (h : exec (.ldStVx x) s = .next t) : t.st = s.reg x := by
  obtain rfl := Host.Outcome.next.inj h
  rfl

/-- R258: the end of a cycle that stays READY counts both timers down. -/
theorem State.toNat_endCycle_timers (h : s.fsm = .ready) :
    s.endCycle.dt.toNat = s.dt.toNat - 1 ∧ s.endCycle.st.toNat = s.st.toNat - 1 := by
  rw [State.endCycle_eq, if_pos h]
  exact ⟨toNat_countDown s.dt, toNat_countDown s.st⟩

/-! ### The obligations -/

/-- Settles O13, from the three ways a cycle can go (`step_cases`): a guarded and an unknown cycle only tick, and an
executed instruction that does not halt is ticked after it has written at most the timer its rule names. -/
theorem timersTickExactlyOncePerCycle : Obligations.TimersTickExactlyOncePerCycle := by
  intro s t hs h
  obtain ⟨hpc, rfl⟩ | ⟨-, ⟨r, hd⟩, rfl⟩ | ⟨hpc, i, u, hd, hexec, rfl⟩ := step_cases hs h
  case inl =>
    have ready := State.not_halted_of_ready (s.guardedCycle_fsm.trans hs)
    exact ⟨fun halted => absurd halted ready, fun _ =>
      ⟨fun _ => toNat_countDown s.dt, fun _ => toNat_countDown s.st, fun hlt => absurd hlt (Nat.not_lt.mpr hpc),
        fun hlt => absurd hlt (Nat.not_lt.mpr hpc)⟩⟩
  case inr.inl =>
    have ready := State.not_halted_of_ready ((s.unknownCycle_fsm s.fetchWord).trans hs)
    exact ⟨fun halted => absurd halted ready, fun _ =>
      ⟨fun _ => toNat_countDown s.dt, fun _ => toNat_countDown s.st, by simp [hd], by simp [hd]⟩⟩
  case inr.inr =>
    rw [State.endCycle_fsm, hd]
    refine ⟨fun halted => ?halts, fun ready => ?ticks⟩
    case halts =>
      have frame := (exec_halts (s := s.fetched) hs hexec).2 halted
      rw [State.endCycle_of_halted halted]
      exact ⟨frame .dt (by decide), frame .st (by decide)⟩
    case ticks =>
      obtain ⟨dt, st⟩ := State.toNat_endCycle_timers ready
      rw [dt, st]
      refine ⟨fun other => ?_, fun other => ?_, fun _ x hx => ?_, fun _ x hx => ?_⟩
      · have hi := other.resolve_left (Nat.not_le.mpr hpc)
        rw [exec_dt hexec fun x hx => hi x (congrArg _ hx), State.fetched_dt]
      · have hi := other.resolve_left (Nat.not_le.mpr hpc)
        rw [exec_st hexec fun x hx => hi x (congrArg _ hx), State.fetched_st]
      · obtain rfl := Except.ok.inj hx
        rw [exec_ldDtVx_dt hexec, State.fetched_reg]
      · obtain rfl := Except.ok.inj hx
        rw [exec_ldStVx_st hexec, State.fetched_reg]

/-- Settles O40: a key index below 16 makes each a skip by that key's level, and one above 15 is rejected. -/
theorem keySkipsReadOneKeyLevel : Obligations.KeySkipsReadOneKeyLevel := by
  intro x s
  refine ⟨decodeWord_groupE (i := .skp x) (kk := 0x9E) rfl rfl, decodeWord_groupE (i := .sknp x) (kk := 0xA1) rfl rfl,
    fun k hk => ?level, fun hx => ?rejected⟩
  case level =>
    exact ⟨exec_skip (exec_skp_of_key hk) Iff.rfl, exec_skip (exec_sknp_of_key hk) (iff_of_eq (Bool.not_eq_true' _))⟩
  case rejected =>
    exact ⟨exec_keyIndexOutOfRange (kk := 0x9E) (exec_skp_of_gt hx) rfl,
      exec_keyIndexOutOfRange (kk := 0xA1) (exec_sknp_of_gt hx) rfl⟩

/-- Settles O41: the register write of the lowest key, or `PC` back at the instruction, as `State.lowestKey?` answers. -/
theorem waitForKeyTakesTheLowestKeyOrRepeats : Obligations.WaitForKeyTakesTheLowestKeyOrRepeats := by
  intro x s
  refine ⟨decodeWord_groupF (i := .ldVxK x) (kk := 0x0A) rfl rfl, fun k hk hlow => ?pressed, fun hnone => ?waits⟩
  case pressed =>
    refine ⟨_, exec_ldVxK_of_lowest hk hlow x, s.setReg_sameBut _ _, fun r => ?_⟩
    rw [State.toNat_setReg_reg, toNat_keyByte]
  case waits => exact ⟨_, exec_ldVxK_of_none hnone x, rfl, s.setPc_sameBut _⟩

/-- Settles O43: each of the three is one update, of a register or of a timer. -/
theorem timerTransfersMoveOneByte : Obligations.TimerTransfersMoveOneByte := by
  intro x s
  exact ⟨decodeWord_groupF (i := .ldVxDt x) (kk := 0x07) rfl rfl,
    decodeWord_groupF (i := .ldDtVx x) (kk := 0x15) rfl rfl, decodeWord_groupF (i := .ldStVx x) (kk := 0x18) rfl rfl,
    exec_setReg rfl, ⟨_, rfl, rfl, s.setDt_sameBut _⟩, ⟨_, rfl, rfl, s.setSt_sameBut _⟩⟩

end Sys2Proof.Machine
end

section
/-! Dump and restore (60_exceptions.md R290, R291): a dump is memory, the registers and six bytes more, and a restore
reads each field where the dump put it. -/

namespace Sys2Proof.Machine

variable (s : State) (image : List Byte)

/-! ### A word and its two bytes as numbers -/

theorem toNat_wordOfBytes (hi lo : Byte) : (wordOfBytes hi lo).toNat = lo.toNat + 256 * hi.toNat := by
  have := hi.isLt
  have := lo.isLt
  rw [wordOfBytes, BitVec.toNat_ofNat, Nat.mod_eq_of_lt (by omega)]
  omega

theorem toNat_lowByte (w : Word) : (lowByte w).toNat = w.toNat % 256 := BitVec.toNat_ofNat _ _

theorem toNat_highByte (w : Word) : (highByte w).toNat = w.toNat / 256 := by
  have := w.isLt
  rw [highByte, BitVec.toNat_ofNat, Nat.mod_eq_of_lt (by omega)]

/-! ### The layout of a dump -/

/-- What a dump holds behind memory and the registers: `I`, `PC`, `DT`, `ST`. -/
def State.dumpTail : List Byte := [lowByte s.idx, highByte s.idx, lowByte s.pc, highByte s.pc, s.dt, s.st]

theorem State.dump_eq : s.dump = s.readBytes 0 memSize ++ (s.v.toList ++ s.dumpTail) := by
  simp only [State.dump, State.dumpTail, List.append_assoc, List.cons_append, List.nil_append]

theorem State.take_dump : s.dump.take memSize = s.readBytes 0 memSize := by
  rw [State.dump_eq, List.take_left' (s.length_readBytes 0 memSize)]

theorem State.dump_getD_memory {a : Nat} (ha : a < 4096) : s.dump.getD a 0 = s.readByte a := by
  rw [State.dump_eq, List.getD_append _ _ _ _ (by rwa [State.length_readBytes]), s.getD_readBytes 0 memSize a ha,
    Nat.zero_add]

theorem State.dump_getD_pastMemory (i : Nat) : s.dump.getD (4096 + i) 0 = (s.v.toList ++ s.dumpTail).getD i 0 := by
  rw [State.dump_eq, List.getD_append_right _ _ _ _ (by simp [memSize]), State.length_readBytes, memSize,
    Nat.add_sub_cancel_left]

theorem State.dump_getD_reg (r : Reg) : s.dump.getD (4096 + r.val) 0 = s.reg r := by
  rw [State.dump_getD_pastMemory, List.getD_append _ _ _ _ (by simp)]
  simp [State.reg]

theorem State.dump_getD_tail (i : Nat) : s.dump.getD (4112 + i) 0 = s.dumpTail.getD i 0 := by
  have past : 4112 + i = 4096 + (16 + i) := Nat.add_assoc 4096 16 i
  rw [past, State.dump_getD_pastMemory, List.getD_append_right _ _ _ _ (by simp), Vector.length_toList,
    Nat.add_sub_cancel_left]

/-! ### What a restore reads -/

theorem State.restore_of_length (h : image.length = 4118) : s.restore image = (s.restored image, .ok) := if_pos h

theorem State.restore_of_length_ne (h : image.length ≠ 4118) : s.restore image = (s, .refused) := if_neg h

/-- R291: a restore writes the dumped parts alone. -/
theorem State.restored_sameBut : s.sameBut (s.restored image) [.mem, .regs, .idx, .pc, .dt, .st] :=
  (((((s.writeBytes_sameBut _ _).append (State.setV_sameBut _ _)).append (State.setIdx_sameBut _ _)).append
    (State.setPc_sameBut _ _)).append (State.setDt_sameBut _ _)).append (State.setSt_sameBut _ _)

theorem State.restored_reg (r : Reg) : (s.restored image).reg r = image.getD (4096 + r.val) 0 := by
  simp [State.restored_eq, State.reg, imageByte]

variable {s image}

/-- The memory a restore leaves is the first 4096 bytes of its image. -/
theorem State.restored_readByte_of_lt (hwf : Memory.wf s.cfg s.mem = true) (hlen : image.length = 4118) {a : Nat}
    (ha : a < 4096) : (s.restored image).readByte a = image.getD a 0 := by
  have length : (image.take memSize).length = 4096 := by rw [List.length_take, hlen, memSize]; rfl
  rw [State.restored_readByte, State.readByte_writeBytes hwf 0 _ a (by rw [length]; decide), if_pos (by omega),
    Nat.sub_zero, List.getD_eq_getElem?_getD, List.getElem?_take_of_lt (show a < memSize from ha),
    List.getD_eq_getElem?_getD]

/-- The registers a restore reads from a dump are the ones dumped. -/
theorem State.ofFn_imageByte_dump (s : State) :
    (Vector.ofFn fun i : Fin 16 => imageByte s.dump (4096 + i.val)) = s.v := by
  refine Vector.ext fun i hi => ?_
  rw [Vector.getElem_ofFn]
  exact s.dump_getD_reg ⟨i, hi⟩

/-- Every field read back from a dump is the field dumped; memory needs the canonical form to be the same data. -/
theorem State.restored_dump (hwf : Memory.wf s.cfg s.mem = true) : s.restored s.dump = s := by
  have tail (i : Nat) : imageByte s.dump (4112 + i) = s.dumpTail.getD i 0 := s.dump_getD_tail i
  have idx : wordOfBytes (imageByte s.dump 4113) (imageByte s.dump 4112) = s.idx := by
    rw [tail 0, tail 1]
    exact wordOfBytes_bytes s.idx
  have pc : wordOfBytes (imageByte s.dump 4115) (imageByte s.dump 4114) = s.pc := by
    rw [tail 2, tail 3]
    exact wordOfBytes_bytes s.pc
  rw [State.restored, State.take_dump, State.writeBytes_readBytes hwf, State.ofFn_imageByte_dump, idx, pc, tail 4,
    tail 5]
  rfl

/-! ### The obligations -/

/-- Settles O51: every field is read off the dump at its own offset. -/
theorem dumpHasTheFixedLayout : Obligations.DumpHasTheFixedLayout := by
  intro s
  have tail (i : Nat) := congrArg BitVec.toNat (s.dump_getD_tail i)
  exact ⟨s.length_dump, fun _ => s.dump_getD_memory, s.dump_getD_reg,
    (tail 0).trans (toNat_lowByte s.idx), (tail 1).trans (toNat_highByte s.idx),
    (tail 2).trans (toNat_lowByte s.pc), (tail 3).trans (toNat_highByte s.pc),
    s.dump_getD_tail 4, s.dump_getD_tail 5⟩

/-- Settles O52: the round trip, the refusal, and each field as the image gives it. -/
theorem restoreIsTheInverseOfDump : Obligations.RestoreIsTheInverseOfDump := by
  refine ⟨fun s hwf => ?roundTrip, State.restore_of_length_ne, fun s image hwf hlen => ?fields⟩
  case roundTrip => rw [s.restore_of_length _ s.length_dump, State.restored_dump hwf]
  case fields =>
    rw [s.restore_of_length image hlen]
    exact ⟨rfl, fun _ => State.restored_readByte_of_lt hwf hlen, s.restored_reg image,
      toNat_wordOfBytes _ _, toNat_wordOfBytes _ _, rfl, rfl, s.restored_sameBut image⟩

end Sys2Proof.Machine
end

section
/-! Loading a ROM (70_reset_and_hazards.md R302, R305): the reset, then either every byte of the ROM written from 0x200
on, or none. -/

namespace Sys2Proof.Machine

variable {s : State} {c : Config} {rom : List Byte}

/-! ### The two outcomes of a load -/

theorem State.load_of_le (h : rom.length ≤ 3584) : s.load c rom = ((s.hostReset c).writeBytes 0x200 rom, .ok) :=
  if_pos h

theorem State.load_of_gt (h : rom.length > 3584) : s.load c rom = (s.hostReset c, .romTooLarge) :=
  if_neg (Nat.not_le.mpr h)

/-! ### The state with the ROM in place -/

/-- Writing the ROM after the reset leaves all but memory, and the model's own draw count, as reset leaves it. -/
theorem State.resetWith_sameBut_placed (s : State) (c : Config) (rom : List Byte) :
    (State.resetWith c).sameBut ((s.hostReset c).writeBytes 0x200 rom) [.mem, .draws] :=
  (((State.resetWith c).setDraws_sameBut s.draws).append ((s.hostReset c).writeBytes_sameBut 0x200 rom)).mono
    (List.Perm.swap Part.mem Part.draws []).subset

/-- The largest ROM ends with memory: 0x200 + 3584 = 4096. -/
theorem placed_within_memory (h : rom.length ≤ 3584) : 0x200 + rom.length ≤ memSize :=
  Nat.add_le_add_left h 0x200

/-! ### The obligation -/

/-- Settles O50: a ROM that fits is written to the memory of the reset state, which is canonical, so each byte reads
back; a longer one leaves the reset state. -/
theorem loadResetsAndPlacesTheRom : Obligations.LoadResetsAndPlacesTheRom := by
  refine fun s c rom => ⟨fun fits => ?placed, State.load_of_gt⟩
  rw [State.load_of_le fits]
  exact ⟨rfl, s.resetWith_sameBut_placed c rom,
    fun _ => State.readByte_writeBytes_add (s.hostReset_wf c) (placed_within_memory fits),
    (s.hostReset c).readByte_writeBytes_other 0x200 rom⟩

end Sys2Proof.Machine
end

section
/-! The decoder against the encoder, both ways (30_encoding.md R104 to R112): a word that decodes is the word of its
instruction, and the opcode map's rows are what the decoder follows. -/

namespace Sys2Proof

variable {op : Word} {i : Instr}

/-! ### A word assembled again from its own fields -/

theorem addrWord_of_group {g : Nat} (hg : groupOf op = g) : addrWord g (nnnOf op) = op := by
  rw [← hg, addrWord_fields]

theorem regByteWord_of_group {g : Nat} (hg : groupOf op = g) : regByteWord g (xOf op) (kkOf op) = op := by
  rw [← hg, regByteWord_fields]

theorem regRegWord_of_group {g : Nat} (hg : groupOf op = g) : regRegWord g (xOf op) (yOf op) (nOf op) = op := by
  rw [← hg, regRegWord_fields]

theorem noneWord_of_key {kk : Byte} (hg : groupOf op = 0) (hkk : (kkOf op).toNat = kk.toNat) :
    noneWord (ignOf op) kk = op := by
  rw [← BitVec.eq_of_toNat_eq hkk, noneWord_fields op hg]

theorem regByteWord_of_key {g : Nat} {kk : Byte} (hg : groupOf op = g) (hkk : (kkOf op).toNat = kk.toNat) :
    regByteWord g (xOf op) kk = op := by
  rw [← BitVec.eq_of_toNat_eq hkk, regByteWord_of_group hg]

theorem regRegWord_of_key {g : Nat} {n : BitVec 4} (hg : groupOf op = g) (hn : (nOf op).toNat = n.toNat) :
    regRegWord g (xOf op) (yOf op) n = op := by
  rw [← BitVec.eq_of_toNat_eq hn, regRegWord_of_group hg]

theorem toNat_nnnOf_mod (op : Word) : (nnnOf op).toNat % 0x100 = op.toNat % 0x100 := by
  rw [nnnOf, BitVec.toNat_ofNat]
  omega

theorem toNat_kkOf (op : Word) : (kkOf op).toNat = op.toNat % 0x100 := BitVec.toNat_ofNat _ _

theorem toNat_nOf (op : Word) : (nOf op).toNat = op.toNat % 0x10 := BitVec.toNat_ofNat _ _

/-! ### The four groups with a second lookup -/

theorem encode_decodeGroup0 (hg : groupOf op = 0) :
    encode (decodeGroup0 op) = op ∧ (decodeGroup0 op).wf = true := by
  unfold decodeGroup0
  split
  next hkk => exact ⟨noneWord_of_key hg hkk, rfl⟩
  next hkk => exact ⟨noneWord_of_key hg hkk, rfl⟩
  next hcls hret =>
    refine ⟨addrWord_of_group hg, ?_⟩
    rw [toNat_kkOf] at hcls hret
    simp only [Instr.wf, sysOperandOk, toNat_nnnOf_mod, Bool.and_eq_true, bne_iff_ne]
    exact ⟨hcls, hret⟩

theorem encode_decodeGroup8 (hg : groupOf op = 0x8) (h : decodeGroup8 op = .ok i) : encode i = op ∧ i.wf = true := by
  unfold decodeGroup8 at h
  split at h <;> cases h <;> exact ⟨regRegWord_of_key hg ‹_›, rfl⟩

theorem encode_decodeGroupE (hg : groupOf op = 0xE) (h : decodeGroupE op = .ok i) : encode i = op ∧ i.wf = true := by
  unfold decodeGroupE at h
  split at h <;> cases h <;> exact ⟨regByteWord_of_key hg ‹_›, rfl⟩

theorem encode_decodeGroupF (hg : groupOf op = 0xF) (h : decodeGroupF op = .ok i) : encode i = op ∧ i.wf = true := by
  unfold decodeGroupF at h
  split at h <;> cases h <;> exact ⟨regByteWord_of_key hg ‹_›, rfl⟩

/-- R110: a word that decodes is the word of its instruction. -/
theorem encode_of_decodeWord (h : decodeWord op = .ok i) : encode i = op ∧ i.wf = true := by
  unfold decodeWord at h
  have := groupOf_lt op
  split at h
  case h_1 hg => cases h; exact encode_decodeGroup0 hg
  case h_2 | h_3 | h_11 | h_12 => cases h; exact ⟨addrWord_of_group ‹_›, rfl⟩
  case h_4 | h_5 | h_7 | h_8 | h_13 => cases h; exact ⟨regByteWord_of_group ‹_›, rfl⟩
  case h_6 | h_10 | h_14 => cases h; exact ⟨regRegWord_of_group ‹_›, rfl⟩
  case h_9 hg => exact encode_decodeGroup8 hg h
  case h_15 hg => exact encode_decodeGroupE hg h
  case h_16 =>
    simp only [imp_false] at *
    exact encode_decodeGroupF (by omega) h

theorem exists_error_decodeGroup8 :
    (∃ r, decodeGroup8 op = .error r) ↔ op.toNat % 0x10 ∈ [0x8, 0x9, 0xA, 0xB, 0xC, 0xD, 0xF] := by
  have hlt := (nOf op).isLt
  rw [← toNat_nOf, decodeGroup8]
  split <;> simp_all
  omega

theorem exists_error_decodeGroupE : (∃ r, decodeGroupE op = .error r) ↔ op.toNat % 0x100 ∉ [0x9E, 0xA1] := by
  rw [← toNat_kkOf, decodeGroupE]
  split <;> simp_all

theorem exists_error_decodeGroupF : (∃ r, decodeGroupF op = .error r) ↔
    op.toNat % 0x100 ∉ [0x07, 0x0A, 0x15, 0x18, 0x1E, 0x29, 0x33, 0x55, 0x65] := by
  rw [← toNat_kkOf, decodeGroupF]
  split <;> simp_all

/-- R112: only the groups 0x8, 0xE and 0xF have words without a handler. -/
theorem exists_error_decodeWord :
    (∃ r, decodeWord op = .error r) ↔
      (groupOf op = 0x8 ∧ ∃ r, decodeGroup8 op = .error r) ∨ (groupOf op = 0xE ∧ ∃ r, decodeGroupE op = .error r) ∨
        (groupOf op = 0xF ∧ ∃ r, decodeGroupF op = .error r) := by
  have := groupOf_lt op
  unfold decodeWord
  split
  case h_16 =>
    have hg : groupOf op = 0xF := by
      simp only [imp_false] at *
      omega
    simp [hg]
  all_goals simp [*]

/-! ### The opcode map -/

/-- R110: the word of every instruction matches its row. -/
theorem encode_matches_rowOf (i : Instr) : (rowOf i).covers (encode i) = true := by
  have h : Laws.EncodeMatchesRow.Statement i := by
    cases i with
    | sys | jp | call | ldI | jpV0 => exact addrWord_group (by decide) _
    | cls | ret => exact noneWord_group_byte _ _
    | seByte | sneByte | ldByte | addByte | rnd => exact regByteWord_group (by decide) _ _
    | seReg | sneReg | drw => exact regRegWord_group (by decide) _ _ _
    | ldReg | orReg | andReg | xorReg | addReg | sub | shr | subn | shl =>
      exact regRegWord_group_nibble (by decide) _ _ _
    | skp | sknp | ldVxDt | ldVxK | ldDtVx | ldStVx | addI | ldF | ldB | storeRegs | loadRegs =>
      exact regByteWord_group_byte (by decide) _ _
  exact beq_iff_eq.mpr h

theorem rowOf_mem_opcodeRows (hi : ∀ nnn, i ≠ .sys nnn) : rowOf i ∈ opcodeRows := by
  cases i with
  | sys nnn => exact absurd rfl (hi nnn)
  | _ => simp [rowOf, opcodeRows]

/-- Two rows that cover one word agree on the bits that both masks keep. -/
theorem OpcodeRow.agree_of_covers {r r' : OpcodeRow} (h : r.covers op = true) (h' : r'.covers op = true) :
    r.pattern &&& r'.mask = r'.pattern &&& r.mask := by
  rw [← beq_iff_eq.mp h, ← beq_iff_eq.mp h', BitVec.and_assoc, BitVec.and_assoc, BitVec.and_comm r.mask]

/-- Any two rows of the map differ on a bit that both masks keep. -/
theorem opcodeRows_disagree : opcodeRows.Pairwise fun r r' => r.pattern &&& r'.mask ≠ r'.pattern &&& r.mask := by
  decide

theorem length_covering_rows_le_one (op : Word) : (opcodeRows.filter fun r => r.covers op).length ≤ 1 := by
  have disagree := opcodeRows_disagree.filter (fun r => r.covers op)
  have covers : ∀ r ∈ opcodeRows.filter (fun r => r.covers op), r.covers op = true :=
    fun _ hr => (List.mem_filter.mp hr).2
  match hrows : opcodeRows.filter fun r => r.covers op with
  | [] | [_] => simp [hrows]
  | r :: r' :: rows =>
    rw [hrows] at disagree covers
    have differ := (List.pairwise_cons.mp disagree).1 r' List.mem_cons_self
    exact absurd (OpcodeRow.agree_of_covers (covers r (by simp)) (covers r' (by simp))) differ

/-- The low byte of a word of group 0 is what its CLS and RET rows test. -/
theorem and_mask_eq_iff_of_group0 (hg : groupOf op = 0) (kk : Byte) :
    op &&& 0xF0FF = BitVec.ofNat 16 kk.toNat ↔ (kkOf op).toNat = kk.toNat := by
  have group : op.toNat / 0x1000 = 0 := hg
  have := kk.isLt
  rw [and_mask_group_byte, group, Nat.zero_mul, Nat.zero_add, ← toNat_kkOf, BitVec.toNat_eq, BitVec.toNat_ofNat,
    BitVec.toNat_ofNat, Nat.mod_eq_of_lt (by omega), Nat.mod_eq_of_lt (by omega)]

/-- R111: SYS is the fallback of group 0. -/
theorem exists_decodeWord_eq_sys :
    (∃ nnn, decodeWord op = .ok (.sys nnn)) ↔
      groupOf op = 0 ∧ (kkOf op).toNat ≠ 0xE0 ∧ (kkOf op).toNat ≠ 0xEE := by
  constructor
  · rintro ⟨nnn, h⟩
    obtain ⟨rfl, hwf⟩ := encode_of_decodeWord h
    obtain ⟨hg, -, hkk⟩ := fields_addrWord (g := 0) (by decide) nnn
    have keys : nnn.toNat % 0x100 ≠ 0xE0 ∧ nnn.toNat % 0x100 ≠ 0xEE := by simpa [Instr.wf, sysOperandOk] using hwf
    rw [encode, hkk, BitVec.toNat_ofNat]
    exact ⟨hg, keys⟩
  · rintro ⟨hg, hcls, hret⟩
    exact ⟨_, Machine.decodeWord_sys hg hcls hret⟩

/-! ### The obligations -/

/-- Settles O2: the two bytes of the instruction's word put together are the word, which decodes to the instruction. -/
theorem decodeAfterEncodeGivesTheInstructionBack : Obligations.DecodeAfterEncodeGivesTheInstructionBack := by
  intro i rest hi
  rw [encodeBytes, List.cons_append, List.cons_append, List.nil_append, decode, wordOfBytes_bytes,
    decodeWord_encode hi]
  rfl

/-- Settles O3: group by group, the fields of a word assemble to the word. -/
theorem encodeAfterDecodeGivesTheWordBack : Obligations.EncodeAfterDecodeGivesTheWordBack :=
  fun _ _ => encode_of_decodeWord

/-- Settles O4, from the one lookup of each group that can fail. -/
theorem unknownWordsAreExactlyTheUnresolvedSubKeys : Obligations.UnknownWordsAreExactlyTheUnresolvedSubKeys := by
  intro op
  rw [exists_error_decodeWord, exists_error_decodeGroup8, exists_error_decodeGroupE, exists_error_decodeGroupF]
  rfl

/-- Settles O5: any two rows differ on a bit that both test; SYS is the fallback; and the word is that of its
instruction, which matches the instruction's row. -/
theorem opcodeMapRowsAreUniqueAndDecodeFollowsThem : Obligations.OpcodeMapRowsAreUniqueAndDecodeFollowsThem := by
  refine ⟨length_covering_rows_le_one, fun op => ?sys, fun op i h hi => ?row⟩
  case sys =>
    rw [exists_decodeWord_eq_sys]
    refine and_congr_right fun hg => and_congr (not_congr ?_) (not_congr ?_)
    · exact (and_mask_eq_iff_of_group0 hg 0xE0).symm
    · exact (and_mask_eq_iff_of_group0 hg 0xEE).symm
  case row =>
    rw [← (encode_of_decodeWord h).1]
    exact ⟨rowOf_mem_opcodeRows hi, encode_matches_rowOf i⟩

/-- Settles O1: the words are literals, and the decoder computes. -/
theorem wordsOfTheSpecDecodeToTheirInstructions : Obligations.WordsOfTheSpecDecodeToTheirInstructions := by
  unfold Obligations.WordsOfTheSpecDecodeToTheirInstructions
  decide

end Sys2Proof
end

section
/-! What the execute phase of every instruction does to each part of the state, said once per part: it always answers,
and it leaves memory, the registers, the stack, the draw flag, the record and `PC` as the lemmas here say. -/

namespace Sys2Proof.Machine

variable {s t : State} {i : Instr}

/-! ### Every instruction answers -/

/-- R270: no instruction is refused and none faults. -/
theorem exec_total (i : Instr) (s : State) : ∃ t, exec i s = .next t := by
  cases i with
  | call nnn =>
    by_cases hsp : s.sp.val < 16
    · exact ⟨_, exec_call_of_lt hsp nnn⟩
    · exact ⟨_, exec_call_of_full (by omega) nnn⟩
  | ret ign =>
    by_cases hsp : s.sp.val = 0
    · exact ⟨_, exec_ret_of_empty hsp ign⟩
    · exact ⟨_, exec_ret_of_succ (j := ⟨s.sp.val - 1, by omega⟩) (Nat.succ_pred hsp).symm ign⟩
  | skp x =>
    by_cases hx : (s.reg x).toNat < 16
    · exact ⟨_, exec_skp_of_key (k := ⟨_, hx⟩) rfl⟩
    · exact ⟨_, exec_skp_of_gt (by omega)⟩
  | sknp x =>
    by_cases hx : (s.reg x).toNat < 16
    · exact ⟨_, exec_sknp_of_key (k := ⟨_, hx⟩) rfl⟩
    · exact ⟨_, exec_sknp_of_gt (by omega)⟩
  | ldVxK x =>
    simp only [exec, execLdVxK]
    cases s.lowestKey? <;> exact ⟨_, rfl⟩
  | drw x y n =>
    simp only [exec, execDrw]
    split <;> exact ⟨_, rfl⟩
  | ldB x =>
    simp only [exec, execLdB]
    split <;> exact ⟨_, rfl⟩
  | storeRegs x =>
    simp only [exec, execStoreRegs]
    split <;> exact ⟨_, rfl⟩
  | loadRegs x =>
    simp only [exec, execLoadRegs]
    split <;> exact ⟨_, rfl⟩
  | _ => exact ⟨_, rfl⟩

/-- R131, R140: every step answers a next state. -/
theorem step_total (s : State) : ∃ t, step s = .next t := by
  cases hf : s.fsm with
  | halted => exact ⟨s, step_halted hf⟩
  | ready =>
    by_cases hp : s.pc.toNat < 4095
    · cases hd : decodeWord s.fetchWord with
      | error r => exact ⟨_, step_unknown hf hp hd⟩
      | ok i =>
        obtain ⟨u, hu⟩ := exec_total i s.fetched
        exact ⟨_, (step_decoded hf hp hd).trans (runInstr_eq_next.mpr ⟨u, hu, rfl⟩)⟩
    · exact ⟨_, step_guarded hf (Nat.not_lt.mp hp)⟩

/-! ### Memory -/

@[simp] theorem State.skipIf_mem (s : State) (c : Bool) : (s.skipIf c).mem = s.mem := by
  rw [State.skipIf_eq, State.setPc_mem]

@[simp] theorem State.raiseAt_mem (s : State) (d : Diag) (i : Instr) : (s.raiseAt d i).mem = s.mem := rfl

@[simp] theorem State.haltIf_mem (s : State) (c : Bool) : (s.haltIf c).mem = s.mem := by
  rw [State.haltIf_eq, State.setFsm_mem]

@[simp] theorem State.loadUpTo_mem (s : State) (x : Reg) : (s.loadUpTo x).mem = s.mem := by
  rw [State.loadUpTo_eq, State.setV_mem]

@[simp] theorem State.drawn_mem (s : State) (d : Framebuffer × Bool) : (s.drawn d).mem = s.mem := rfl

/-- Unchanged memory is memory after a write of no bytes. -/
theorem State.mem_eq_writeBytes_nil {a n : Nat} (h : t.mem = s.mem) :
    ∃ bs : List Byte, bs.length ≤ n ∧ t.mem = (s.writeBytes a bs).mem :=
  ⟨[], Nat.zero_le n, h⟩

/-- Memory changes by the bytes an instruction stores from `I` on, at most `storeLength` of them. -/
theorem exec_mem (h : exec i s = .next t) :
    ∃ bs : List Byte, bs.length ≤ storeLength i ∧ t.mem = (s.writeBytes (s.indexed 0) bs).mem := by
  cases i with
  | ldB | storeRegs =>
    obtain rfl | rfl := eq_or_eq_of_ite_next h
    · exact ⟨_, by simp [storeLength, length_bcdDigits], rfl⟩
    · exact State.mem_eq_writeBytes_nil rfl
  | call =>
    obtain ⟨-, v, hv, rfl⟩ | ⟨-, rfl⟩ := exec_call_cases h
    · obtain ⟨-, rfl⟩ := s.push?_eq_some.mp hv
      exact State.mem_eq_writeBytes_nil rfl
    · exact State.mem_eq_writeBytes_nil (by simp)
  | ret =>
    obtain ⟨-, w, v, hv, rfl⟩ | ⟨-, rfl⟩ := exec_ret_cases h
    · obtain ⟨-, -, rfl⟩ := s.pop?_eq_some.mp hv
      exact State.mem_eq_writeBytes_nil rfl
    · exact State.mem_eq_writeBytes_nil (by simp)
  | skp => obtain ⟨k, -, rfl⟩ | ⟨-, rfl⟩ := exec_skp_cases h <;> exact State.mem_eq_writeBytes_nil (by simp)
  | sknp => obtain ⟨k, -, rfl⟩ | ⟨-, rfl⟩ := exec_sknp_cases h <;> exact State.mem_eq_writeBytes_nil (by simp)
  | ldVxK => obtain ⟨b, -, rfl⟩ | ⟨-, rfl⟩ := exec_ldVxK_cases h <;> exact State.mem_eq_writeBytes_nil rfl
  | drw | loadRegs => obtain rfl | rfl := eq_or_eq_of_ite_next h <;> exact State.mem_eq_writeBytes_nil (by simp)
  | seByte | sneByte | seReg | sneReg =>
    obtain rfl := Host.Outcome.next.inj h
    exact State.mem_eq_writeBytes_nil (s.skipIf_mem _)
  | _ =>
    obtain rfl := Host.Outcome.next.inj h
    exact State.mem_eq_writeBytes_nil rfl

/-- Only LD B and LD [I],Vx store (20_memory.md R71). -/
theorem exec_mem_of_storeLength_eq_zero (h : exec i s = .next t) (hi : storeLength i = 0) : t.mem = s.mem := by
  obtain ⟨bs, hbs, hmem⟩ := exec_mem h
  obtain rfl := List.length_eq_zero_iff.mp (Nat.le_zero.mp (hi ▸ hbs))
  exact hmem

theorem storeLength_eq_zero_or (i : Instr) : storeLength i = 0 ∨ (∃ x, i = .ldB x) ∨ ∃ x, i = .storeRegs x := by
  cases i <;> simp [storeLength]

/-- R300: no instruction changes the parameters. -/
theorem cfg_notMem_mayWrite (i : Instr) : Part.cfg ∉ mayWrite i := by
  cases i <;> simp [mayWrite]

theorem exec_cfg (h : exec i s = .next t) : t.cfg = s.cfg := exec_sameBut h .cfg (cfg_notMem_mayWrite i)

/-- Every byte outside those stored reads as before. -/
theorem exec_readByte (h : exec i s = .next t) {a : Nat} (ha : a < s.indexed 0 ∨ s.indexed 0 + storeLength i ≤ a) :
    t.readByte a = s.readByte a := by
  obtain ⟨bs, hbs, hmem⟩ := exec_mem h
  rw [← s.readByte_writeBytes_other (s.indexed 0) bs a (by omega), State.readByte, State.readByte, exec_cfg h, hmem,
    State.writeBytes_cfg]

/-! ### Registers -/

theorem State.setRegFlag_reg_other (s : State) {x r : Reg} (result flag : Byte) (hx : r ≠ x) (hf : r ≠ vF) :
    (s.setRegFlag x result flag).reg r = s.reg r := by
  rw [State.setRegFlag_reg, if_neg hf, if_neg hx]

/-- Every register but an instruction's destinations and its flag is as before. -/
theorem exec_reg (h : exec i s = .next t) {r : Reg} (hr : mayWriteReg r i = false) : t.reg r = s.reg r := by
  by_cases hregs : Part.regs ∈ mayWrite i
  case neg => exact exec_sameBut h .regs hregs r
  cases i with
  | ldByte | addByte | ldReg | orReg | andReg | xorReg | rnd | ldVxDt =>
    obtain rfl := Host.Outcome.next.inj h
    exact s.setReg_reg_other _ (beq_eq_false_iff_ne.mp hr)
  | addReg | sub | shr | subn | shl =>
    obtain rfl := Host.Outcome.next.inj h
    obtain ⟨hx, hf⟩ := Bool.or_eq_false_iff.mp hr
    exact s.setRegFlag_reg_other _ _ (beq_eq_false_iff_ne.mp hx) (beq_eq_false_iff_ne.mp hf)
  | drw =>
    have other := beq_eq_false_iff_ne.mp hr
    obtain rfl | rfl := eq_or_eq_of_ite_next h
    · exact State.setReg_reg_other _ _ other
    · exact State.setReg_reg_other _ _ other
  | ldVxK =>
    obtain ⟨b, -, rfl⟩ | ⟨-, rfl⟩ := exec_ldVxK_cases h
    · exact s.setReg_reg_other _ (beq_eq_false_iff_ne.mp hr)
    · rfl
  | loadRegs x =>
    obtain rfl | rfl := eq_or_eq_of_ite_next h
    · rw [State.loadUpTo_reg, if_neg (of_decide_eq_false hr)]
    · rfl
  | _ => simp [mayWrite] at hregs

/-! ### The stack -/

/-- The stack an instruction leaves: a CALL with room on it pushes (R151). -/
def State.stackAfter (s : State) : Instr → Vector Word 16
  | .call _ => if h : s.sp.val < 16 then s.stack.set s.sp.val s.pc else s.stack
  | _ => s.stack

theorem exec_stack (h : exec i s = .next t) : t.stack = s.stackAfter i := by
  by_cases hstack : Part.stack ∈ mayWrite i
  case neg =>
    have after : s.stackAfter i = s.stack := by
      cases i with
      | call => simp [mayWrite] at hstack
      | _ => rfl
    rw [after]
    exact Vector.ext fun j hj => exec_sameBut h .stack hstack ⟨j, hj⟩
  cases i with
  | call nnn =>
    obtain ⟨hsp, v, hv, rfl⟩ | ⟨hsp, rfl⟩ := exec_call_cases h
    · obtain ⟨-, rfl⟩ := s.push?_eq_some.mp hv
      rw [State.stackAfter, dif_pos hsp]
      rfl
    · rw [State.haltIf_eq, State.stackAfter, dif_neg (by omega)]
      rfl
  | _ => simp [mayWrite] at hstack

/-- An entry changes only where a CALL pushes its return address. -/
theorem State.stackAfter_ne (s : State) {i : Instr} {j : Fin 16} (h : (s.stackAfter i)[j] ≠ s.stack[j]) :
    (∃ nnn, i = .call nnn) ∧ j.val = s.sp.val ∧ (s.stackAfter i)[j] = s.pc := by
  cases i with
  | call nnn =>
    by_cases hsp : s.sp.val < 16
    · rw [State.stackAfter, dif_pos hsp, getElem_set_stack] at h ⊢
      obtain ⟨hj, -⟩ := ite_ne_right_iff.mp h
      exact ⟨⟨nnn, rfl⟩, hj, if_pos hj⟩
    · rw [State.stackAfter, dif_neg hsp] at h
      exact absurd rfl h
  | _ => exact absurd rfl h

/-- `sp` changes only in a CALL, up by one, and in a RET, down by one. -/
theorem exec_sp (h : exec i s = .next t) :
    t.sp = s.sp ∨ ((∃ nnn, i = .call nnn) ∧ t.sp.val = s.sp.val + 1) ∨
      ((∃ ign, i = .ret ign) ∧ t.sp.val + 1 = s.sp.val) := by
  by_cases hsp : Part.sp ∈ mayWrite i
  case neg => exact .inl (exec_sameBut h .sp hsp)
  cases i with
  | call nnn =>
    obtain ⟨-, v, hv, rfl⟩ | ⟨-, rfl⟩ := exec_call_cases h
    · obtain ⟨-, rfl⟩ := s.push?_eq_some.mp hv
      exact .inr (.inl ⟨⟨nnn, rfl⟩, rfl⟩)
    · exact .inl (s.rejected_sameBut _ _ _ .sp (by decide))
  | ret ign =>
    obtain ⟨-, w, v, hv, rfl⟩ | ⟨-, rfl⟩ := exec_ret_cases h
    · obtain ⟨hpos, -, rfl⟩ := s.pop?_eq_some.mp hv
      exact .inr (.inr ⟨⟨ign, rfl⟩, Nat.sub_add_cancel hpos⟩)
    · exact .inl (s.rejected_sameBut _ _ _ .sp (by decide))
  | _ => simp [mayWrite] at hsp

/-! ### The draw flag -/

/-- The draw flag is set by CLS and by a DRW in bounds, and nothing clears it (44_display.md R236). -/
theorem exec_drawFlag (h : exec i s = .next t) :
    t.drawFlag = true ↔ s.drawFlag = true ∨ (∃ ign, i = .cls ign) ∨
      ∃ x y n, i = .drw x y n ∧ s.idx.toNat + n.toNat ≤ 4096 := by
  by_cases hflag : Part.drawFlag ∈ mayWrite i
  case neg =>
    have keeps : t.drawFlag = s.drawFlag := exec_sameBut h .drawFlag hflag
    cases i <;> simp_all [mayWrite]
  cases i with
  | cls ign =>
    obtain rfl := Host.Outcome.next.inj h
    exact iff_of_true rfl (.inr (.inl ⟨ign, rfl⟩))
  | drw x y n =>
    simp only [exec, execDrw] at h
    split at h
    next hb =>
      obtain rfl := Host.Outcome.next.inj h
      exact iff_of_true rfl (.inr (.inr ⟨x, y, n, rfl, (s.inBounds_iff _).mp hb⟩))
    next hb =>
      obtain rfl := Host.Outcome.next.inj h
      have out := mt (s.inBounds_iff _).mpr hb
      simpa [State.raiseAt_eq] using fun hn => absurd hn out
  | _ => simp [mayWrite] at hflag

/-! ### The record -/

/-- The diagnostic an instruction raises in its execute phase, if it raises one (60_exceptions.md R271, the cause
column). -/
def State.diagnosis (s : State) : Instr → Option Diag
  | .sys _ => some .unknownOpcode
  | .call _ => if s.sp.val = 16 then some .stackOverflow else none
  | .ret _ => if s.sp.val = 0 then some .stackUnderflow else none
  | .drw _ _ n => if s.inBounds n.toNat then none else some .spriteOutOfBounds
  | .skp x => if 15 < (s.reg x).toNat then some .keyIndexOutOfRange else none
  | .sknp x => if 15 < (s.reg x).toNat then some .keyIndexOutOfRange else none
  | .ldB _ => if s.inBounds 3 then none else some .memOutOfBounds
  | .storeRegs x => if s.inBounds (x.val + 1) then none else some .memOutOfBounds
  | .loadRegs x => if s.inBounds (x.val + 1) then none else some .memOutOfBounds
  | _ => none

/-- The record an instruction leaves: its own diagnostic, address and word, or the record as it was (R141). -/
def State.recordAfter (s : State) (i : Instr) : DiagRecord :=
  (s.diagnosis i).elim s.diag fun d => { valid := true, code := d, pc := s.pc - 2, opcode := encode i }

@[simp] theorem State.writeBytes_diag (s : State) (a : Nat) (bs : List Byte) : (s.writeBytes a bs).diag = s.diag := by
  rw [State.writeBytes_eq, State.setMem_diag]

@[simp] theorem State.skipIf_diag (s : State) (c : Bool) : (s.skipIf c).diag = s.diag := by
  rw [State.skipIf_eq, State.setPc_diag]

theorem exec_diag (h : exec i s = .next t) : t.diag = s.recordAfter i := by
  by_cases hdiag : Part.diag ∈ mayWrite i
  case neg =>
    have none : s.diagnosis i = none := by cases i <;> simp_all [mayWrite, State.diagnosis]
    rw [State.recordAfter, none]
    exact exec_sameBut h .diag hdiag
  cases i with
  | sys => obtain rfl := Host.Outcome.next.inj h; rfl
  | call =>
    obtain ⟨hsp, v, hv, rfl⟩ | ⟨hsp, rfl⟩ := exec_call_cases h
    · obtain ⟨-, rfl⟩ := s.push?_eq_some.mp hv
      simp [State.recordAfter, State.diagnosis, hsp.ne]
    · simp [State.recordAfter, State.diagnosis, hsp, State.rejected_diag]
  | ret =>
    obtain ⟨hsp, w, v, hv, rfl⟩ | ⟨hsp, rfl⟩ := exec_ret_cases h
    · obtain ⟨-, -, rfl⟩ := s.pop?_eq_some.mp hv
      simp [State.recordAfter, State.diagnosis, hsp.ne']
    · simp [State.recordAfter, State.diagnosis, hsp, State.rejected_diag]
  | skp x =>
    obtain ⟨k, hk, rfl⟩ | ⟨hk, rfl⟩ := exec_skp_cases h
    · have low : ¬ 15 < (s.reg x).toNat := mt keyIndex?_eq_none.mpr (by simp [hk])
      simp [State.recordAfter, State.diagnosis, low]
    · simp [State.recordAfter, State.diagnosis, keyIndex?_eq_none.mp hk, State.raiseAt_eq]
  | sknp x =>
    obtain ⟨k, hk, rfl⟩ | ⟨hk, rfl⟩ := exec_sknp_cases h
    · have low : ¬ 15 < (s.reg x).toNat := mt keyIndex?_eq_none.mpr (by simp [hk])
      simp [State.recordAfter, State.diagnosis, low]
    · simp [State.recordAfter, State.diagnosis, keyIndex?_eq_none.mp hk, State.raiseAt_eq]
  | drw | ldB | storeRegs | loadRegs =>
    simp only [exec, execDrw, execLdB, execStoreRegs, execLoadRegs] at h
    split at h <;> obtain rfl := Host.Outcome.next.inj h <;>
      simp [State.recordAfter, State.diagnosis, State.raiseAt_eq, State.drawn, State.loadUpTo, *]
  | _ => simp [mayWrite] at hdiag

/-! ### The obligations -/

/-- Settles O12: instruction by instruction, and from it every kind of cycle. -/
theorem everyStepAnswersANextState : Obligations.EveryStepAnswersANextState :=
  ⟨step_total, exec_total⟩

/-- Settles O45, from the frame of the execute phase part by part, register by register and byte by byte. -/
theorem everyInstructionKeepsItsFrame : Obligations.EveryInstructionKeepsItsFrame :=
  fun _ _ _ h => ⟨exec_sameBut h, fun _ => exec_reg h, fun _ => exec_readByte h⟩

/-- Settles O24: `sp` and the entries as every instruction leaves them, and a RET that pops what the CALL pushed. -/
theorem onlyCallAndRetMoveTheStack : Obligations.OnlyCallAndRetMoveTheStack := by
  refine ⟨fun i s t h => ⟨exec_sp h, fun j hj => ?entry⟩, fun nnn s t hsp h => ?rejected,
    fun nnn ign s t u hsp h hu hstack => ?returns⟩
  case entry =>
    rw [exec_stack h] at hj
    obtain ⟨call, hsp, -⟩ := s.stackAfter_ne hj
    exact ⟨call, hsp⟩
  case rejected =>
    rw [exec_call_of_full hsp] at h
    obtain rfl := Host.Outcome.next.inj h
    have frame := s.rejected_sameBut .stackOverflow (.call nnn) s.cfg.stackFaultFatal
    exact ⟨frame .sp (by decide), Vector.ext fun j hj => frame .stack (by decide) ⟨j, hj⟩⟩
  case returns =>
    rw [exec_call_of_lt hsp] at h
    obtain rfl := Host.Outcome.next.inj h
    refine ⟨_, exec_ret_of_succ (s := u) (j := ⟨s.sp.val, hsp⟩) (congrArg Fin.val hu) ign, ?_, rfl⟩
    have pushed : u.stack[(⟨s.sp.val, hsp⟩ : Fin 16)] = s.pc := by
      rw [hstack]
      exact (getElem_set_stack s.stack hsp s.pc ⟨s.sp.val, hsp⟩).trans (if_pos rfl)
    exact pushed

end Sys2Proof.Machine
end

section
/-! What a step does to each part of the state, whatever cycle it is: the frame of a whole step, and the registers,
memory, stack, draw flag and record of a READY core after it. -/

namespace Sys2Proof.Machine

variable {s t : State} {i : Instr}

/-! ### The frame of a step -/

theorem State.endCycle_sameBut (s : State) : s.sameBut s.endCycle [.dt, .st] := by
  rw [State.endCycle_eq_setTimers]
  exact (s.setDt_sameBut _).append (State.setSt_sameBut _ _)

theorem State.agreeOn_refl (s : State) (p : Part) : s.agreeOn s p := by
  cases p <;> simp [State.agreeOn]

/-- The cycle that executes `i` writes at most `PC`, the record, the timers and the parts the rule of `i` names. -/
theorem executed_sameBut {u : State} (h : exec i s.fetched = .next u) :
    s.sameBut u.endCycle ([.diag, .pc] ++ mayWrite i ++ [.dt, .st]) :=
  (s.fetched_sameBut.append (exec_sameBut h)).append u.endCycle_sameBut

/-- A part of the state that is neither `PC`, the record nor a timer changes only in a cycle that executes an
instruction whose rule names it. -/
theorem step_agreeOn (h : step s = .next t) {p : Part} (hp : p ∉ [Part.pc, .diag, .dt, .st]) :
    s.agreeOn t p ∨ s.fsm = .ready ∧ s.pc.toNat < 4095 ∧ ∃ i, decodeWord s.fetchWord = .ok i ∧ p ∈ mayWrite i := by
  cases hf : s.fsm with
  | halted =>
    obtain rfl := Host.Outcome.next.inj ((step_halted hf).symm.trans h)
    exact .inl (s.agreeOn_refl p)
  | ready =>
    obtain ⟨-, rfl⟩ | ⟨-, -, rfl⟩ | ⟨hpc, i, u, hd, hexec, rfl⟩ := step_cases hf h
    · exact .inl (s.guardedCycle_sameBut.mono (by simp) p hp)
    · exact .inl (s.unknownCycle_sameBut _ p hp)
    · by_cases hi : p ∈ mayWrite i
      · exact .inr ⟨rfl, hpc, i, hd, hi⟩
      · exact .inl (executed_sameBut hexec p (by simp_all))

/-- A part that the rule of no instruction names is as before. -/
theorem step_agreeOn_of_notMem_mayWrite (h : step s = .next t) {p : Part} (hp : p ∉ [Part.pc, .diag, .dt, .st])
    (hi : ∀ i, p ∉ mayWrite i) : s.agreeOn t p :=
  (step_agreeOn h hp).resolve_right fun ⟨_, _, i, _, hmem⟩ => hi i hmem

/-- R42: no instruction writes the keypad. -/
theorem key_notMem_mayWrite (i : Instr) : Part.key ∉ mayWrite i := by
  cases i <;> simp [mayWrite]

theorem step_cfg (h : step s = .next t) : t.cfg = s.cfg :=
  step_agreeOn_of_notMem_mayWrite h (by decide) cfg_notMem_mayWrite

theorem step_key (h : step s = .next t) : t.key = s.key :=
  BitVec.eq_of_getLsbD_eq fun k hk =>
    step_agreeOn_of_notMem_mayWrite h (p := .key) (by decide) key_notMem_mayWrite ⟨k, hk⟩

/-! ### Which instruction's rule names a part -/

theorem idx_mem_mayWrite (h : Part.idx ∈ mayWrite i) :
    (∃ nnn, i = .ldI nnn) ∨ (∃ x, i = .addI x) ∨ ∃ x, i = .ldF x := by
  cases i <;> simp_all [mayWrite]

theorem fb_mem_mayWrite (h : Part.fb ∈ mayWrite i) : (∃ ign, i = .cls ign) ∨ ∃ x y n, i = .drw x y n := by
  cases i <;> simp_all [mayWrite]

theorem sp_mem_mayWrite (h : Part.sp ∈ mayWrite i) : (∃ nnn, i = .call nnn) ∨ ∃ ign, i = .ret ign := by
  cases i <;> simp_all [mayWrite]

theorem draws_mem_mayWrite (h : Part.draws ∈ mayWrite i) : ∃ x kk, i = .rnd x kk := by
  cases i <;> simp_all [mayWrite]

/-! ### Memory -/

@[simp] theorem State.endCycle_mem (s : State) : s.endCycle.mem = s.mem := by
  rw [State.endCycle_eq_setTimers]
  rfl

@[simp] theorem State.endCycle_cfg (s : State) : s.endCycle.cfg = s.cfg := by
  rw [State.endCycle_eq_setTimers]
  rfl

@[simp] theorem State.endCycle_readByte (s : State) (a : Nat) : s.endCycle.readByte a = s.readByte a := by
  rw [State.endCycle_eq_setTimers]
  rfl

@[simp] theorem State.guardedCycle_mem (s : State) : s.guardedCycle.mem = s.mem := rfl

@[simp] theorem State.unknownCycle_mem (s : State) (op : Word) : (s.unknownCycle op).mem = s.mem := by
  rw [State.unknownCycle_eq]
  rfl

@[simp] theorem State.unknownCycle_cfg (s : State) (op : Word) : (s.unknownCycle op).cfg = s.cfg := by
  rw [State.unknownCycle_eq]
  rfl

theorem step_mem (h : step s = .next t) :
    t.mem = s.mem ∨ (∃ x, decodeWord s.fetchWord = .ok (.ldB x)) ∨
      ∃ x, decodeWord s.fetchWord = .ok (.storeRegs x) := by
  cases hf : s.fsm with
  | halted => exact .inl (congrArg State.mem (Host.Outcome.next.inj ((step_halted hf).symm.trans h)).symm)
  | ready =>
    obtain ⟨-, rfl⟩ | ⟨-, -, rfl⟩ | ⟨-, i, u, hd, hexec, rfl⟩ := step_cases hf h
    · exact .inl s.guardedCycle_mem
    · exact .inl (s.unknownCycle_mem _)
    · obtain hi | ⟨x, rfl⟩ | ⟨x, rfl⟩ := storeLength_eq_zero_or i
      · exact .inl (u.endCycle_mem.trans ((exec_mem_of_storeLength_eq_zero hexec hi).trans s.fetched_mem))
      · exact .inr (.inl ⟨x, hd⟩)
      · exact .inr (.inr ⟨x, hd⟩)

/-! ### Registers, the stack and the draw flag of a READY core -/

@[simp] theorem State.guardedCycle_stack (s : State) : s.guardedCycle.stack = s.stack := rfl

@[simp] theorem State.unknownCycle_stack (s : State) (op : Word) : (s.unknownCycle op).stack = s.stack := by
  rw [State.unknownCycle_eq]
  rfl

theorem step_reg (hf : s.fsm = .ready) (h : step s = .next t) {r : Reg} (hr : t.reg r ≠ s.reg r) :
    s.pc.toNat < 4095 ∧ ∃ i, decodeWord s.fetchWord = .ok i ∧ mayWriteReg r i = true := by
  obtain ⟨-, rfl⟩ | ⟨-, -, rfl⟩ | ⟨hpc, i, u, hd, hexec, rfl⟩ := step_cases hf h
  · exact absurd rfl hr
  · exact absurd rfl hr
  · rw [State.endCycle_reg, ← s.fetched_reg] at hr
    exact ⟨hpc, i, hd, Bool.not_eq_false _ ▸ mt (exec_reg hexec) hr⟩

theorem step_stack (hf : s.fsm = .ready) (h : step s = .next t) {j : Fin 16} (hj : t.stack[j] ≠ s.stack[j]) :
    s.pc.toNat < 4095 ∧ (∃ nnn, decodeWord s.fetchWord = .ok (.call nnn)) ∧ j.val = s.sp.val ∧
      t.stack[j].toNat = s.pc.toNat + 2 := by
  obtain ⟨-, rfl⟩ | ⟨-, -, rfl⟩ | ⟨hpc, i, u, hd, hexec, rfl⟩ := step_cases hf h
  · exact absurd rfl hj
  · exact absurd (by simp) hj
  · rw [State.endCycle_stack, exec_stack hexec] at hj ⊢
    obtain ⟨⟨nnn, rfl⟩, hsp, pushed⟩ := s.fetched.stackAfter_ne hj
    exact ⟨hpc, ⟨nnn, hd⟩, hsp, by rw [pushed, s.toNat_fetched_pc hpc]⟩

theorem step_drawFlag (hf : s.fsm = .ready) (h : step s = .next t) :
    t.drawFlag = true ↔ s.drawFlag = true ∨
      (s.pc.toNat < 4095 ∧ ((∃ ign, decodeWord s.fetchWord = .ok (.cls ign)) ∨
        ∃ x y n, decodeWord s.fetchWord = .ok (.drw x y n) ∧ s.idx.toNat + n.toNat ≤ 4096)) := by
  obtain ⟨hpc, rfl⟩ | ⟨-, ⟨r, hd⟩, rfl⟩ | ⟨hpc, i, u, hd, hexec, rfl⟩ := step_cases hf h
  · exact (or_iff_left fun h => absurd h.1 (Nat.not_lt.mpr hpc)).symm
  · exact (or_iff_left (by simp [hd])).symm
  · rw [State.endCycle_drawFlag, exec_drawFlag hexec]
    simp [hd, hpc]

/-- R37: every word but a jump, CALL, RET, skip or LD Vx,K leaves `PC` post-fetch. -/
theorem step_pc (hf : s.fsm = .ready) (hp : s.pc.toNat < 4095) (h : step s = .next t)
    (hpc : t.pc.toNat ≠ s.pc.toNat + 2) : ∃ i, decodeWord s.fetchWord = .ok i ∧ Part.pc ∈ mayWrite i := by
  obtain ⟨hge, -⟩ | ⟨-, -, rfl⟩ | ⟨-, i, u, hd, hexec, rfl⟩ := step_cases hf h
  · exact absurd hp (Nat.not_lt.mpr hge)
  · exact absurd (s.toNat_fetched_pc hp) hpc
  · refine ⟨i, hd, Decidable.by_contra fun hi => hpc ?_⟩
    have pc : u.pc = s.fetched.pc := exec_sameBut hexec .pc hi
    rw [State.endCycle_pc, pc, s.toNat_fetched_pc hp]

/-! ### The record of a READY core -/

@[simp] theorem State.fetched_diagnosis (s : State) (i : Instr) : s.fetched.diagnosis i = s.diagnosis i := by
  cases i <;> rfl

/-- The causes of the table of 60_exceptions.md R271 that an executed instruction can meet are the ones of its
execute phase. -/
theorem State.raises_iff_diagnosis (hp : s.pc.toNat < 4095) (hd : decodeWord s.fetchWord = .ok i) (d : Diag) :
    s.raises d ↔ s.diagnosis i = some d := by
  cases d with
  | fetchOutOfBounds => exact iff_of_false (Nat.not_le.mpr hp) (by cases i <;> simp [State.diagnosis])
  | memOutOfBounds =>
    simp only [State.raises, hp, hd, true_and]
    cases i <;> simp [State.diagnosis, State.inBounds_iff] <;> omega
  | _ =>
    simp only [State.raises, hp, hd, true_and]
    cases i <;> simp [State.diagnosis, State.inBounds_iff]

theorem State.diagnosis_ne_none (s : State) (i : Instr) : s.diagnosis i ≠ some .none := by
  cases i <;> simp [State.diagnosis]

/-- The record after a cycle that executes `i` names the cycle's own address and word, or is the one before it, no
longer valid. -/
theorem executed_diag {u : State} (hd : decodeWord s.fetchWord = .ok i) (h : exec i s.fetched = .next u) :
    u.endCycle.diag = (s.diagnosis i).elim { s.diag with valid := false } fun d =>
      { valid := true, code := d, pc := s.pc, opcode := s.fetchWord } := by
  rw [State.endCycle_diag, exec_diag h, State.recordAfter, s.fetched_diagnosis, s.fetched_pc_sub,
    (encode_of_decodeWord hd).1, s.fetched_diag]

theorem State.unknownCycle_diag (s : State) (op : Word) :
    (s.unknownCycle op).diag = { valid := true, code := .unknownOpcode, pc := s.pc, opcode := op } := by
  rw [State.unknownCycle_eq]
  rfl

theorem State.guardedCycle_diag (s : State) :
    s.guardedCycle.diag = { valid := true, code := .fetchOutOfBounds, pc := s.pc, opcode := 0 } := rfl

/-- In a guarded cycle the one cause of the table that holds is the fetch guard's. -/
theorem State.raises_iff_of_guarded (hp : 4095 ≤ s.pc.toNat) (d : Diag) : s.raises d ↔ d = .fetchOutOfBounds := by
  have guarded : ¬ s.pc.toNat < 4095 := Nat.not_lt.mpr hp
  cases d <;> simp [State.raises, guarded, hp]

/-- In a cycle without a handler the one cause of the table that holds is the unresolved word. -/
theorem State.raises_iff_of_unknown {r : DecodeReject} (hp : s.pc.toNat < 4095)
    (hd : decodeWord s.fetchWord = .error r) (d : Diag) : s.raises d ↔ d = .unknownOpcode := by
  cases d <;> simp [State.raises, hp, hd]

/-! ### The obligations -/

/-- Settles O46: the frame of a step part by part; memory as the data it is, and the draw flag as `step_drawFlag`
says. -/
theorem indexMemoryFramebufferAndSpChangeOnlyInTheirInstructions :
    Obligations.IndexMemoryFramebufferAndSpChangeOnlyInTheirInstructions := by
  intro s t h
  refine ⟨step_cfg h, step_key h, ?flag, fun hidx => ?idx, fun hmem => (step_mem h).resolve_left hmem,
    fun hfb => ?fb, fun hsp => ?sp, fun hdraws => ?draws⟩
  case flag =>
    intro set
    cases hf : s.fsm with
    | halted => exact Host.Outcome.next.inj ((step_halted hf).symm.trans h) ▸ set
    | ready => exact (step_drawFlag hf h).mpr (.inl set)
  case idx =>
    obtain ⟨-, -, i, hd, hi⟩ := (step_agreeOn h (p := .idx) (by decide)).resolve_left hidx
    rw [hd]
    simpa using idx_mem_mayWrite hi
  case fb =>
    have changed : ¬ s.agreeOn t .fb := fun same => hfb (Framebuffer.ext_pixel same)
    obtain ⟨-, -, i, hd, hi⟩ := (step_agreeOn h (by decide)).resolve_left changed
    rw [hd]
    simpa using fb_mem_mayWrite hi
  case sp =>
    obtain ⟨-, -, i, hd, hi⟩ := (step_agreeOn h (p := .sp) (by decide)).resolve_left hsp
    rw [hd]
    simpa using sp_mem_mayWrite hi
  case draws =>
    obtain ⟨-, -, i, hd, hi⟩ := (step_agreeOn h (p := .draws) (by decide)).resolve_left hdraws
    rw [hd]
    simpa using draws_mem_mayWrite hi

/-- Settles O56, from the laws of a step part by part; a guarded cycle keeps `PC`. -/
theorem registersPcStackAndDrawFlagChangeOnlyInTheirInstructions :
    Obligations.RegistersPcStackAndDrawFlagChangeOnlyInTheirInstructions := by
  intro s t hf h
  refine ⟨fun r => step_reg hf h, fun hp => ?guarded, fun hp => step_pc hf hp h, fun j => step_stack hf h,
    step_drawFlag hf h⟩
  obtain rfl := Host.Outcome.next.inj ((step_guarded hf hp).symm.trans h)
  rfl

/-- Settles O14: in each kind of cycle the record after it is the one whose cause the table names. -/
theorem eachDiagnosticIsRaisedExactlyByItsCause : Obligations.EachDiagnosticIsRaisedExactlyByItsCause := by
  intro s t d hf h _
  obtain ⟨hp, rfl⟩ | ⟨hp, ⟨r, hd⟩, rfl⟩ | ⟨hp, i, u, hd, hexec, rfl⟩ := step_cases hf h
  · simp [State.raises_iff_of_guarded hp, State.guardedCycle_diag, eq_comm]
  · simp [State.raises_iff_of_unknown hp hd, State.unknownCycle_diag, eq_comm]
  · rw [State.raises_iff_diagnosis hp hd, executed_diag hd hexec]
    cases s.diagnosis i <;> simp

/-- Settles O15: in each kind of cycle a valid record is made of the cycle's own address and word. -/
theorem theDiagnosticRecordNamesTheInstruction : Obligations.TheDiagnosticRecordNamesTheInstruction := by
  intro s t hf h
  obtain ⟨hp, rfl⟩ | ⟨hp, -, rfl⟩ | ⟨hp, i, u, hd, hexec, rfl⟩ := step_cases hf h
  · simp [State.guardedCycle_diag, hp]
  · simp [State.unknownCycle_diag, Nat.not_le.mpr hp]
  · rw [executed_diag hd hexec]
    have named := s.diagnosis_ne_none i
    cases hdiag : s.diagnosis i with
    | none => simp
    | some d => simpa [Nat.not_le.mpr hp, hdiag] using named

end Sys2Proof.Machine
end

section
/-! The core stays sound (10_state.md R37; 20_memory.md R70; 40_cycle_dispatch.md R139): the reset state is, every step
and every host operation keeps it, and so every session does; and every step keeps the bound on `PC`. -/

namespace Sys2Proof.Machine

variable {s t u : State} {i : Instr}

/-! ### Soundness under one operation -/

/-- Soundness is about the parameters, memory, the record and the FSM alone. -/
theorem State.Sound.of_eq (hs : s.Sound) (hcfg : t.cfg = s.cfg) (hmem : Memory.wf t.cfg t.mem = true)
    (hdiag : t.diag = s.diag) (hfsm : t.fsm = s.fsm) : t.Sound where
  memory := hmem
  record := hdiag ▸ hs.record
  halt := by
    rw [State.haltExplained, hcfg, hdiag, hfsm]
    exact hs.halt

/-- A cycle that leaves the core READY with a record that names a diagnostic leaves it sound. -/
theorem State.Sound.of_ready (hmem : Memory.wf t.cfg t.mem = true) (hdiag : t.diag.valid = true → t.diag.code ≠ .none)
    (hfsm : t.fsm = .ready) : t.Sound where
  memory := hmem
  record := hdiag
  halt halted := absurd halted (State.not_halted_of_ready hfsm)

theorem exec_wf (hs : Memory.wf s.cfg s.mem = true) (h : exec i s = .next t) : Memory.wf t.cfg t.mem = true := by
  obtain ⟨bs, -, hmem⟩ := exec_mem h
  rw [exec_cfg h, hmem]
  simpa using State.writeBytes_wf hs (s.indexed 0) bs

/-- R139: a halting cycle has raised the diagnostic that the parameters make fatal. -/
theorem executed_haltExplained (hf : s.fsm = .ready) (hd : decodeWord s.fetchWord = .ok i)
    (h : exec i s.fetched = .next u) (halted : u.fsm = .halted) : u.endCycle.haltExplained := by
  have cfg : u.endCycle.cfg = s.cfg := u.endCycle_cfg.trans (exec_cfg (s := s.fetched) h)
  rw [State.haltExplained, cfg, executed_diag hd h]
  obtain ⟨⟨nnn, rfl⟩, hsp, fatal⟩ | ⟨⟨ign, rfl⟩, hsp, fatal⟩ := (exec_halts (s := s.fetched) hf h).1.mp halted
  · have full : s.sp.val = 16 := hsp
    simp [State.diagnosis, full, show s.cfg.stackFaultFatal = true from fatal]
  · have empty : s.sp.val = 0 := hsp
    simpa [State.diagnosis, empty] using fatal

/-- An executed instruction leaves a sound core. -/
theorem executed_sound (hs : s.Sound) (hf : s.fsm = .ready) (hd : decodeWord s.fetchWord = .ok i)
    (h : exec i s.fetched = .next u) : u.endCycle.Sound where
  memory := by simpa using exec_wf (s := s.fetched) hs.memory h
  record := by
    rw [executed_diag hd h]
    have named := s.diagnosis_ne_none i
    cases hdiag : s.diagnosis i <;> simp_all
  halt halted := executed_haltExplained hf hd h (u.endCycle_fsm ▸ halted)

theorem step_sound (hs : s.Sound) (h : step s = .next t) : t.Sound := by
  cases hf : s.fsm with
  | halted => exact Host.Outcome.next.inj ((step_halted hf).symm.trans h) ▸ hs
  | ready =>
    obtain ⟨-, rfl⟩ | ⟨-, -, rfl⟩ | ⟨-, i, u, hd, hexec, rfl⟩ := step_cases hf h
    · exact .of_ready hs.memory (by simp [State.guardedCycle_diag]) hf
    · exact .of_ready (by simpa using hs.memory) (by simp [State.unknownCycle_diag]) (by simpa using hf)
    · exact executed_sound hs hf hd hexec

/-! ### The bound on `PC` -/

/-- R37: from a post-fetch `PC` an instruction reaches no address beyond 0x10FE, the largest target of JP V0. -/
theorem exec_pc_le (hlow : 2 ≤ s.pc.toNat) (hhigh : s.pc.toNat ≤ 4096)
    (hstack : ∀ j : Fin 16, j.val < s.sp.val → s.stack[j].toNat ≤ 0x1000) (h : exec i s = .next t) :
    t.pc.toNat ≤ 0x10FE := by
  have keeps (hpc : t.pc = s.pc) : t.pc.toNat ≤ 0x10FE := by rw [hpc]; omega
  have skips (c : Bool) (hpc : t.pc = (s.skipIf c).pc) : t.pc.toNat ≤ 0x10FE := by
    rw [hpc, State.skipIf_pc]
    split
    · rw [BitVec.toNat_add]
      simp
      omega
    · omega
  by_cases hmem : Part.pc ∈ mayWrite i
  case neg => exact keeps (exec_sameBut h .pc hmem)
  cases i with
  | jp nnn =>
    obtain rfl := Host.Outcome.next.inj h
    have := nnn.isLt
    rw [State.setPc_pc, toNat_addrOperand]
    omega
  | jpV0 nnn =>
    obtain rfl := Host.Outcome.next.inj h
    have := nnn.isLt
    have := (s.reg 0).isLt
    rw [State.setPc_pc, toNat_addrOperand_add_wideOperand]
    omega
  | call nnn =>
    obtain ⟨-, v, -, rfl⟩ | ⟨-, rfl⟩ := exec_call_cases h
    · have := nnn.isLt
      rw [State.setPc_pc, toNat_addrOperand]
      omega
    · exact keeps (s.rejected_sameBut _ _ _ .pc (by decide))
  | ret ign =>
    obtain ⟨hsp, w, v, hv, rfl⟩ | ⟨-, rfl⟩ := exec_ret_cases h
    · obtain ⟨-, rfl, -⟩ := s.pop?_eq_some.mp hv
      have := hstack ⟨s.sp.val - 1, by omega⟩ (Nat.sub_lt hsp Nat.one_pos)
      exact this.trans (by decide)
    · exact keeps (s.rejected_sameBut _ _ _ .pc (by decide))
  | seByte | sneByte | seReg | sneReg =>
    obtain rfl := Host.Outcome.next.inj h
    exact skips _ rfl
  | skp =>
    obtain ⟨k, -, rfl⟩ | ⟨-, rfl⟩ := exec_skp_cases h
    · exact skips _ rfl
    · exact keeps rfl
  | sknp =>
    obtain ⟨k, -, rfl⟩ | ⟨-, rfl⟩ := exec_sknp_cases h
    · exact skips _ rfl
    · exact keeps rfl
  | ldVxK =>
    obtain ⟨b, -, rfl⟩ | ⟨-, rfl⟩ := exec_ldVxK_cases h
    · exact keeps rfl
    · have two : (2 : Word) ≤ s.pc := BitVec.le_def.mpr hlow
      rw [State.setPc_pc, BitVec.toNat_sub_of_le two]
      omega
  | _ => simp [mayWrite] at hmem

/-- Every pushed entry after an instruction was pushed before it or is the post-fetch `PC`. -/
theorem exec_stack_le (hpc : s.pc.toNat ≤ 0x1000)
    (hstack : ∀ j : Fin 16, j.val < s.sp.val → s.stack[j].toNat ≤ 0x1000) (h : exec i s = .next t) :
    ∀ j : Fin 16, j.val < t.sp.val → t.stack[j].toNat ≤ 0x1000 := by
  intro j hj
  rw [exec_stack h]
  by_cases same : (s.stackAfter i)[j] = s.stack[j]
  · rw [same]
    obtain hsp | ⟨⟨nnn, rfl⟩, hsp⟩ | ⟨-, hsp⟩ := exec_sp h
    · exact hstack j (hsp ▸ hj)
    · by_cases hlt : j.val < s.sp.val
      · exact hstack j hlt
      · have top : j.val = s.sp.val := by omega
        rw [← same, State.stackAfter, dif_pos (by omega), getElem_set_stack, if_pos top]
        exact hpc
    · exact hstack j (by omega)
  · obtain ⟨-, -, pushed⟩ := s.stackAfter_ne same
    rw [pushed]
    exact hpc

theorem step_bounded (hs : s.Bounded) (h : step s = .next t) : t.Bounded := by
  cases hf : s.fsm with
  | halted => exact Host.Outcome.next.inj ((step_halted hf).symm.trans h) ▸ hs
  | ready =>
    obtain ⟨-, rfl⟩ | ⟨hp, -, rfl⟩ | ⟨hp, i, u, -, hexec, rfl⟩ := step_cases hf h
    · exact ⟨hs.pc, hs.stack⟩
    · have pc : (s.unknownCycle s.fetchWord).pc.toNat = s.pc.toNat + 2 := s.toNat_fetched_pc hp
      exact ⟨by omega, hs.stack⟩
    · have pc := s.toNat_fetched_pc hp
      have sp : u.endCycle.sp = u.sp := u.endCycle_sameBut .sp (by decide)
      refine ⟨?_, ?_⟩
      · rw [State.endCycle_pc]
        exact exec_pc_le (s := s.fetched) (by omega) (by omega) hs.stack hexec
      · rw [State.endCycle_stack, sp]
        exact exec_stack_le (s := s.fetched) (by omega) hs.stack hexec

/-! ### Host operations -/

theorem State.resetWith_sound (c : Config) : (State.resetWith c).Sound :=
  .of_ready rfl (fun h => nomatch h) rfl

theorem State.hostReset_sound (s : State) (c : Config) : (s.hostReset c).Sound :=
  (State.resetWith_sound c).of_eq rfl (s.hostReset_wf c) rfl rfl

theorem State.writeBytes_sound (hs : s.Sound) (a : Nat) (bs : List Byte) : (s.writeBytes a bs).Sound :=
  hs.of_eq (s.writeBytes_cfg a bs) (State.writeBytes_wf hs.memory a bs) (s.writeBytes_diag a bs) (s.writeBytes_fsm a bs)

theorem State.load_sound (s : State) (c : Config) (rom : List Byte) : (s.load c rom).1.Sound := by
  unfold State.load
  split
  · exact State.writeBytes_sound (s.hostReset_sound c) _ _
  · exact s.hostReset_sound c

theorem State.hostStep_sound (hs : s.Sound) : s.hostStep.Sound := by
  obtain ⟨t, ht⟩ := step_total s
  rw [State.hostStep, ht]
  exact step_sound hs ht

theorem State.restore_sound (hs : s.Sound) (image : List Byte) : (s.restore image).1.Sound := by
  by_cases hlen : image.length = 4118
  · have frame := s.restored_sameBut image
    rw [s.restore_of_length image hlen]
    have cfg : (s.restored image).cfg = s.cfg := frame .cfg (by decide)
    refine hs.of_eq cfg ?_ (frame .diag (by decide)) (frame .fsm (by decide))
    rw [cfg, State.restored_mem]
    simpa using State.writeBytes_wf hs.memory 0 (image.take memSize)
  · rw [s.restore_of_length_ne image hlen]
    exact hs

/-- Each host operation leads from a sound state to a sound state. -/
theorem State.perform_sound (hs : s.Sound) (op : HostOp) : (s.perform op).1.Sound := by
  cases op with
  | reset c => exact s.hostReset_sound c
  | load c rom => exact s.load_sound c rom
  | step => exact State.hostStep_sound hs
  | writeKeys | clearDrawFlag => exact hs.of_eq rfl hs.memory rfl rfl
  | readOutputs | dump => exact hs
  | restore image => exact State.restore_sound hs image

theorem State.performAll_sound (hs : s.Sound) (ops : List HostOp) : (s.performAll ops).Sound := by
  induction ops generalizing s with
  | nil => exact hs
  | cons op ops ih => exact ih (State.perform_sound hs op)

/-! ### The obligations -/

/-- Settles O17: a halted core keeps its state, a guarded or unknown cycle stays READY with a record of its own, and an
executed instruction writes canonical memory, halts with its cause and jumps within the bound. -/
theorem everyStepKeepsTheCoreSound : Obligations.EveryStepKeepsTheCoreSound :=
  fun _ _ hs h => ⟨step_sound hs h, fun hb => step_bounded hb h⟩

/-- Settles O55, operation by operation. -/
theorem everyHostOperationKeepsTheCoreSound : Obligations.EveryHostOperationKeepsTheCoreSound :=
  fun _ op hs => State.perform_sound hs op

/-- Settles O19, by induction on the session from the reset state. -/
theorem everyHostSessionKeepsTheCoreSound : Obligations.EveryHostSessionKeepsTheCoreSound :=
  fun c ops => State.performAll_sound (State.resetWith_sound c) ops

/-- Settles O18: after reset no cell is listed, no record is valid, and no entry is pushed. -/
theorem theResetStateIsSoundAndBounded : Obligations.TheResetStateIsSoundAndBounded := by
  intro c
  have pc : (State.resetWith c).pc.toNat ≤ 0x10FE := (by decide : (0x200 : Word).toNat ≤ 0x10FE)
  exact ⟨State.resetWith_sound c, pc, fun j hj => absurd hj (Nat.not_lt_zero j.val)⟩

end Sys2Proof.Machine
end

section
/-! What no instruction reads (10_state.md R39, R45, R46): the draw flag, the record, and the stack entries at or above
`sp`.  Two states that differ in these alone take the same kind of cycle and execute the same instruction, and the
states they reach differ in these alone. -/

namespace Sys2Proof.Machine

variable {s s' t t' : State} {i : Instr}

/-! ### Another stack, draw flag and record in a state -/

/-- `s` with what no instruction reads replaced. -/
def State.overlay (s : State) (k : Vector Word 16) (b : Bool) (d : DiagRecord) : State :=
  ((s.setStack k).setDrawFlag b).setDiag d

section Overlay
variable (s) (k : Vector Word 16) (b : Bool) (d : DiagRecord)

@[simp] theorem State.overlay_readBytes (a n : Nat) : (s.overlay k b d).readBytes a n = s.readBytes a n := by
  induction n generalizing a with
  | zero => rfl
  | succ n ih => rw [State.readBytes, ih, State.readBytes]; rfl

@[simp] theorem State.overlay_writeBytes (a : Nat) (bs : List Byte) :
    (s.overlay k b d).writeBytes a bs = (s.writeBytes a bs).overlay k b d := by
  induction bs generalizing s a with
  | nil => rfl
  | cons v bs ih => exact ih (s.writeByte a v) (a + 1)

@[simp] theorem State.overlay_loadUpTo (x : Reg) :
    (s.overlay k b d).loadUpTo x = (s.loadUpTo x).overlay k b d := rfl

@[simp] theorem State.overlay_lowestKey? : (s.overlay k b d).lowestKey? = s.lowestKey? := rfl

@[simp] theorem State.overlay_skipIf (c : Bool) :
    (s.overlay k b d).skipIf c = (s.skipIf c).overlay k b d := by
  cases c <;> rfl

end Overlay

/-- `t` differs from `s` at most in the draw flag, the record and the stack entries at or above `sp`. -/
def State.sameButUnread (s t : State) : Prop :=
  ∃ k b d, t = s.overlay k b d ∧ ∀ j : Fin 16, j.val < s.sp.val → k[j] = s.stack[j]

/-! ### The execute phase -/

theorem exec_call_sameButUnread {nnn : BitVec 12} (hs : s.sameButUnread s') (h : exec (.call nnn) s = .next t)
    (h' : exec (.call nnn) s' = .next t') : t.sameButUnread t' := by
  obtain ⟨k, b, d, rfl, hk⟩ := hs
  by_cases hsp : s.sp.val < 16
  · rw [exec_call_of_lt hsp] at h
    rw [exec_call_of_lt (s := s.overlay k b d) hsp] at h'
    obtain rfl := Host.Outcome.next.inj h
    obtain rfl := Host.Outcome.next.inj h'
    refine ⟨k.set s.sp.val s.pc, b, d, rfl, fun j hj => ?_⟩
    have below : j.val < s.sp.val + 1 := hj
    have pushed : (s.called hsp nnn).stack[j] = if j.val = s.sp.val then s.pc else s.stack[j] :=
      getElem_set_stack s.stack hsp s.pc j
    rw [getElem_set_stack k hsp, pushed]
    split
    · rfl
    · exact hk j (by omega)
  · rw [exec_call_of_full (by omega)] at h
    rw [exec_call_of_full (s := s.overlay k b d) (Nat.le_antisymm s.sp.is_le (Nat.not_lt.mp hsp))] at h'
    obtain rfl := Host.Outcome.next.inj h
    obtain rfl := Host.Outcome.next.inj h'
    rw [State.haltIf_eq, State.haltIf_eq]
    exact ⟨k, b, _, rfl, hk⟩

theorem exec_ret_sameButUnread {ign : BitVec 4} (hs : s.sameButUnread s') (h : exec (.ret ign) s = .next t)
    (h' : exec (.ret ign) s' = .next t') : t.sameButUnread t' := by
  obtain ⟨k, b, d, rfl, hk⟩ := hs
  by_cases hsp : s.sp.val = 0
  · rw [exec_ret_of_empty hsp] at h
    rw [exec_ret_of_empty (s := s.overlay k b d) hsp] at h'
    obtain rfl := Host.Outcome.next.inj h
    obtain rfl := Host.Outcome.next.inj h'
    rw [State.haltIf_eq, State.haltIf_eq]
    exact ⟨k, b, _, rfl, hk⟩
  · obtain ⟨j, hj⟩ : ∃ j : Fin 16, s.sp.val = j.val + 1 := ⟨⟨s.sp.val - 1, by omega⟩, by simp; omega⟩
    rw [exec_ret_of_succ hj] at h
    rw [exec_ret_of_succ (s := s.overlay k b d) hj] at h'
    obtain rfl := Host.Outcome.next.inj h
    obtain rfl := Host.Outcome.next.inj h'
    have popped : k[j] = s.stack[j] := hk j (by omega)
    refine ⟨k, b, d, ?_, fun j' hj' => hk j' (hj ▸ Nat.lt_succ_of_lt hj')⟩
    exact congrArg ((s.overlay k b d).setSp j.castSucc).setPc popped

theorem sameButUnread_of_exec {u u' : State} (h : exec i s = .next t) (h' : exec i s' = .next t')
    (hu : exec i s = .next u) (hu' : exec i s' = .next u') (huu' : u.sameButUnread u') : t.sameButUnread t' := by
  obtain rfl := Host.Outcome.next.inj (hu.symm.trans h)
  obtain rfl := Host.Outcome.next.inj (hu'.symm.trans h')
  exact huu'

/-- A rule with one condition, run from two states in which it is the same condition. -/
theorem eq_and_eq_of_ite_next {c : Prop} [Decidable c] {a b a' b' : State}
    (h : (if c then .next a else .next b : Result) = .next t)
    (h' : (if c then .next a' else .next b' : Result) = .next t') : (t = a ∧ t' = a') ∨ (t = b ∧ t' = b') := by
  split at h <;> simp_all

theorem State.sameButUnread.skipIf (hs : s.sameButUnread s') (c : Bool) :
    (s.skipIf c).sameButUnread (s'.skipIf c) := by
  obtain ⟨k, b, d, rfl, hk⟩ := hs
  refine ⟨k, b, d, s.overlay_skipIf k b d c, ?_⟩
  cases c <;> exact hk

theorem State.sameButUnread.raiseAt (hs : s.sameButUnread s') (d : Diag) (i : Instr) :
    (s.raiseAt d i).sameButUnread (s'.raiseAt d i) := by
  obtain ⟨k, b, r, rfl, hk⟩ := hs
  exact ⟨k, b, _, rfl, hk⟩

theorem State.sameButUnread.writeBytes (hs : s.sameButUnread s') (a : Nat) (bs : List Byte) :
    (s.writeBytes a bs).sameButUnread (s'.writeBytes a bs) := by
  obtain ⟨k, b, d, rfl, hk⟩ := hs
  refine ⟨k, b, d, s.overlay_writeBytes k b d a bs, ?_⟩
  rw [State.writeBytes_eq]
  exact hk

theorem State.sameButUnread.loadUpTo (hs : s.sameButUnread s') (x : Reg) :
    (s.loadUpTo x).sameButUnread (s'.loadUpTo x) := by
  obtain ⟨k, b, d, rfl, hk⟩ := hs
  refine ⟨k, b, d, s.overlay_loadUpTo k b d x, ?_⟩
  rw [State.loadUpTo_eq]
  simpa only [State.setV_sp, State.setV_stack] using hk

/-- Two states that differ in nothing an instruction reads execute it to two states that do. -/
theorem exec_sameButUnread (hs : s.sameButUnread s') (h : exec i s = .next t) (h' : exec i s' = .next t') :
    t.sameButUnread t' := by
  have hs' := hs
  obtain ⟨k, b, d, rfl, hk⟩ := hs'
  cases i with
  | call => exact exec_call_sameButUnread hs h h'
  | ret => exact exec_ret_sameButUnread hs h h'
  | seByte | sneByte | seReg | sneReg => exact sameButUnread_of_exec h h' rfl rfl (hs.skipIf _)
  | skp x =>
    by_cases hx : (s.reg x).toNat < 16
    · have key : (s.reg x).toNat = (⟨_, hx⟩ : Fin 16).val := rfl
      exact sameButUnread_of_exec h h' (exec_skp_of_key key) (exec_skp_of_key key) (hs.skipIf _)
    · have high : (s.reg x).toNat > 15 := Nat.not_lt.mp hx
      exact sameButUnread_of_exec h h' (exec_skp_of_gt high) (exec_skp_of_gt high) (hs.raiseAt _ _)
  | sknp x =>
    by_cases hx : (s.reg x).toNat < 16
    · have key : (s.reg x).toNat = (⟨_, hx⟩ : Fin 16).val := rfl
      exact sameButUnread_of_exec h h' (exec_sknp_of_key key) (exec_sknp_of_key key) (hs.skipIf _)
    · have high : (s.reg x).toNat > 15 := Nat.not_lt.mp hx
      exact sameButUnread_of_exec h h' (exec_sknp_of_gt high) (exec_sknp_of_gt high) (hs.raiseAt _ _)
  | ldVxK x =>
    simp only [exec, execLdVxK, State.overlay_lowestKey?] at h h'
    cases hkey : s.lowestKey? <;> rw [hkey] at h h' <;> obtain rfl := Host.Outcome.next.inj h <;>
      obtain rfl := Host.Outcome.next.inj h' <;> exact ⟨k, b, d, rfl, hk⟩
  | drw x y n =>
    simp only [exec, execDrw, State.overlay_readBytes] at h h'
    obtain ⟨rfl, rfl⟩ | ⟨rfl, rfl⟩ := eq_and_eq_of_ite_next h h'
    · exact ⟨k, true, d, rfl, hk⟩
    · exact ⟨k, b, _, rfl, hk⟩
  | ldB | storeRegs =>
    obtain ⟨rfl, rfl⟩ | ⟨rfl, rfl⟩ := eq_and_eq_of_ite_next h h'
    · exact hs.writeBytes _ _
    · exact hs.raiseAt _ _
  | loadRegs =>
    obtain ⟨rfl, rfl⟩ | ⟨rfl, rfl⟩ := eq_and_eq_of_ite_next h h'
    · exact hs.loadUpTo _
    · exact hs.raiseAt _ _
  | sys => exact sameButUnread_of_exec h h' rfl rfl (hs.raiseAt _ _)
  | cls => exact sameButUnread_of_exec h h' rfl rfl ⟨k, true, d, rfl, hk⟩
  | _ => exact sameButUnread_of_exec h h' rfl rfl ⟨k, b, d, rfl, hk⟩

/-! ### The two views -/

theorem State.sameButHostView.sameButUnread (hs : s.sameButHostView s') : s.sameButUnread s' :=
  ⟨s.stack, s'.drawFlag, s'.diag, hs, fun _ _ => rfl⟩

theorem State.sameButStaleStack.sameButUnread (hs : s.sameButStaleStack s') : s.sameButUnread s' :=
  ⟨s'.stack, s.drawFlag, s.diag, hs.1, hs.2⟩

theorem State.sameButUnread.sameButHostView (hs : s.sameButUnread s') (hstack : s'.stack = s.stack) :
    s.sameButHostView s' := by
  obtain ⟨k, b, d, rfl, -⟩ := hs
  obtain rfl : k = s.stack := hstack
  rfl

theorem State.sameButUnread.sameButStaleStack (hs : s.sameButUnread s') (hflag : s'.drawFlag = s.drawFlag)
    (hdiag : s'.diag = s.diag) : s.sameButStaleStack s' := by
  obtain ⟨k, b, d, rfl, hk⟩ := hs
  obtain rfl : b = s.drawFlag := hflag
  obtain rfl : d = s.diag := hdiag
  exact ⟨rfl, hk⟩

/-- Equal stacks stay equal: a CALL pushes at the same `sp` the same post-fetch `PC`. -/
theorem exec_sameButHostView (hs : s.sameButHostView s') (h : exec i s = .next t) (h' : exec i s' = .next t') :
    t.sameButHostView t' := by
  refine (exec_sameButUnread hs.sameButUnread h h').sameButHostView ?_
  have after : s'.stackAfter i = s.stackAfter i := by
    rw [hs]
    cases i <;> rfl
  rw [exec_stack h, exec_stack h', after]

/-- Equal draw flags and records stay equal: neither depends on the stack. -/
theorem exec_sameButStaleStack (hs : s.sameButStaleStack s') (h : exec i s = .next t) (h' : exec i s' = .next t') :
    t.sameButStaleStack t' := by
  have ⟨heq, _⟩ := hs
  refine (exec_sameButUnread hs.sameButUnread h h').sameButStaleStack ?flag ?record
  case flag =>
    rw [Bool.eq_iff_iff, exec_drawFlag h, exec_drawFlag h', heq]
    rfl
  case record =>
    have after : s'.recordAfter i = s.recordAfter i := by
      rw [heq, State.recordAfter, State.recordAfter]
      cases i <;> rfl
    rw [exec_diag h, exec_diag h', after]

/-! ### The rest of a cycle -/

/-- Two states that are alike in the FSM, `PC` and the word fetched take the same kind of step. -/
theorem step_pair (hfsm : s'.fsm = s.fsm) (hpc : s'.pc = s.pc) (hword : s'.fetchWord = s.fetchWord)
    (h : step s = .next t) (h' : step s' = .next t') :
    (t = s ∧ t' = s') ∨ (t = s.guardedCycle ∧ t' = s'.guardedCycle) ∨
    (∃ op, t = s.unknownCycle op ∧ t' = s'.unknownCycle op) ∨
    (∃ i u u', exec i s.fetched = .next u ∧ exec i s'.fetched = .next u' ∧ t = u.endCycle ∧ t' = u'.endCycle) := by
  cases hf : s.fsm with
  | halted =>
    have hf' := hfsm.trans hf
    exact .inl ⟨Host.Outcome.next.inj (h.symm.trans (step_halted hf)),
      Host.Outcome.next.inj (h'.symm.trans (step_halted hf'))⟩
  | ready =>
    have hf' := hfsm.trans hf
    obtain ⟨hp, rfl⟩ | ⟨hp, ⟨r, hd⟩, rfl⟩ | ⟨hp, i, u, hd, hexec, rfl⟩ := step_cases hf h
    · rw [step_guarded hf' (hpc.symm ▸ hp)] at h'
      exact .inr (.inl ⟨rfl, (Host.Outcome.next.inj h').symm⟩)
    · rw [step_unknown hf' (hpc.symm ▸ hp) (hword.symm ▸ hd), hword] at h'
      exact .inr (.inr (.inl ⟨s.fetchWord, rfl, (Host.Outcome.next.inj h').symm⟩))
    · rw [step_decoded hf' (hpc.symm ▸ hp) (hword.symm ▸ hd)] at h'
      obtain ⟨u', hu', rfl⟩ := runInstr_eq_next.mp h'
      exact .inr (.inr (.inr ⟨i, u, u', hexec, hu', rfl, rfl⟩))

theorem State.sameButHostView.endCycle (hs : s.sameButHostView s') : s.endCycle.sameButHostView s'.endCycle := by
  rw [State.sameButHostView, State.endCycle_drawFlag, State.endCycle_diag]
  conv_lhs => rw [hs]
  simp only [State.endCycle_eq_setTimers]
  rfl

theorem State.sameButStaleStack.endCycle (hs : s.sameButStaleStack s') :
    s.endCycle.sameButStaleStack s'.endCycle := by
  obtain ⟨heq, hk⟩ := hs
  have sp : s.endCycle.sp = s.sp := s.endCycle_sameBut .sp (by decide)
  refine ⟨?_, by simpa only [sp, State.endCycle_stack] using hk⟩
  rw [State.endCycle_stack]
  conv_lhs => rw [heq]
  simp only [State.endCycle_eq_setTimers]
  rfl

/-! ### The obligations -/

/-- Settles O47: the two steps are of one kind, and in each kind the draw flag and the record reach nothing else. -/
theorem theCoreNeverReadsWhatOnlyTheHostSees : Obligations.TheCoreNeverReadsWhatOnlyTheHostSees := by
  intro s s' t t' hs h h'
  have fsm : s'.fsm = s.fsm := by rw [hs]; rfl
  have pc : s'.pc = s.pc := by rw [hs]; rfl
  have word : s'.fetchWord = s.fetchWord := by rw [hs]; rfl
  obtain ⟨rfl, rfl⟩ | ⟨rfl, rfl⟩ | ⟨op, rfl, rfl⟩ | ⟨i, u, u', hu, hu', rfl, rfl⟩ := step_pair fsm pc word h h'
  · exact hs
  · rw [hs]; rfl
  · rw [hs]; rfl
  · have fetched : s.fetched.sameButHostView s'.fetched := by rw [hs]; rfl
    exact (exec_sameButHostView fetched hu hu').endCycle

/-- Settles O48: the two steps are of one kind, and in each kind the entries at or above `sp` reach nothing else. -/
theorem noInstructionReadsAStaleStackEntry : Obligations.NoInstructionReadsAStaleStackEntry := by
  intro s s' t t' hs h h'
  have ⟨heq, hk⟩ := hs
  have fsm : s'.fsm = s.fsm := by rw [heq]; rfl
  have pc : s'.pc = s.pc := by rw [heq]; rfl
  have word : s'.fetchWord = s.fetchWord := by rw [heq]; rfl
  obtain ⟨rfl, rfl⟩ | ⟨rfl, rfl⟩ | ⟨op, rfl, rfl⟩ | ⟨i, u, u', hu, hu', rfl, rfl⟩ := step_pair fsm pc word h h'
  · exact hs
  · exact ⟨by rw [heq]; rfl, hk⟩
  · exact ⟨by rw [heq]; rfl, hk⟩
  · have fetched : s.fetched.sameButStaleStack s'.fetched := ⟨by rw [heq]; rfl, hk⟩
    exact (exec_sameButStaleStack fetched hu hu').endCycle

end Sys2Proof.Machine
end

section
/-! The fetch of a cycle (40_cycle_dispatch.md R131 to R133; 20_memory.md R73, R82): a step runs what the two bytes at
`PC` decode to, whether a word was placed there, stored there by the cycle before, or ends memory. -/

namespace Sys2Proof.Machine

variable {s t : State} {i : Instr}

/-! ### The word at `PC` -/

theorem decodeWord_of_decode_pair {hi lo : Byte} {rest : List Byte} (h : decode [hi, lo] = .ok (i, rest)) :
    decodeWord (wordOfBytes hi lo) = .ok i := by
  rw [decode] at h
  cases hd : decodeWord (wordOfBytes hi lo) with
  | error r => simp [hd, Except.map] at h
  | ok i' => simpa [hd, Except.map] using (congrArg (Except.map Prod.fst) h)

theorem decodeWord_of_decodeTableWord {nbits w : Nat} (h : decodeTableWord nbits w = some i) :
    decodeWord (tableWord nbits w) = .ok i := by
  rw [decodeTableWord] at h
  split at h
  next j rest hd =>
    obtain rfl := Option.some.inj h
    simpa using decodeWord_of_decode_pair hd
  next => cases h

/-- Two bytes written at `PC` are the word fetched there. -/
theorem State.fetchWord_writeBytes (hwf : Memory.wf s.cfg s.mem = true) (hp : s.pc.toNat < 4095) (hi lo : Byte) :
    (s.writeBytes s.pc.toNat [hi, lo]).fetchWord = wordOfBytes hi lo := by
  have fits : s.pc.toNat + [hi, lo].length ≤ memSize := by
    rw [memSize, List.length_cons, List.length_singleton]
    omega
  have pc : (s.writeBytes s.pc.toNat [hi, lo]).pc = s.pc := s.writeBytes_sameBut _ _ .pc (by decide)
  have first := State.readByte_writeBytes_add hwf fits (j := 0) (by simp)
  have second := State.readByte_writeBytes_add hwf fits (j := 1) (by simp)
  rw [State.fetchWord, pc]
  exact congrArg₂ wordOfBytes first second

theorem State.placement_lt (s : State) : s.placement.toNat < 4095 := by
  unfold State.placement State.fetchBlocked
  split
  · decide
  · simp_all

/-- A placed word is the one the next step fetches, in a READY core below the fetch guard (log entry 12). -/
theorem State.fetchWord_placeWord (hwf : Memory.wf s.cfg s.mem = true) (op : Word) :
    (s.placeWord op).fetchWord = op ∧ (s.placeWord op).fsm = .ready ∧ (s.placeWord op).pc.toNat < 4095 := by
  have word := State.fetchWord_writeBytes (s := (s.setFsm .ready).setPc s.placement) hwf s.placement_lt
    (highByte op) (lowByte op)
  have pc : (s.placeWord op).pc = s.placement := State.writeBytes_sameBut _ _ _ .pc (by decide)
  rw [wordOfBytes_bytes] at word
  exact ⟨word, State.writeBytes_fsm _ _ _, pc ▸ s.placement_lt⟩

/-! ### LD Vx,kk, whose cycle leaves `PC` post-fetch -/

theorem step_ldByte {x : Reg} {kk : Byte} (hf : s.fsm = .ready) (hp : s.pc.toNat < 4095)
    (hd : decodeWord s.fetchWord = .ok (.ldByte x kk)) :
    ∃ t, step s = .next t ∧ t.fsm = .ready ∧ t.pc = s.pc + 2 ∧ t.reg x = kk ∧ t.diag.valid = false := by
  refine ⟨(s.fetched.setReg x kk).endCycle, ?_, by simpa using hf, by simp, by simp, by simp⟩
  rw [step_decoded hf hp hd, runInstr_eq_next]
  exact ⟨s.fetched.setReg x kk, rfl, rfl⟩

/-! ### Waiting at LD Vx,K -/

/-- The state after one waiting cycle (R257): `PC` where it was, the record not valid, both timers ticked. -/
def State.waited (s : State) : State :=
  ((s.setDiag { s.diag with valid := false }).setDt (countDown s.dt)).setSt (countDown s.st)

theorem State.waited_sameBut (s : State) : s.sameBut s.waited [.dt, .st, .diag] :=
  (((s.setDiag_sameBut _).append (State.setDt_sameBut _ _)).append (State.setSt_sameBut _ _)).mono (by simp)

theorem step_waiting {x : Reg} (hf : s.fsm = .ready) (hp : s.pc.toNat < 4095)
    (hd : decodeWord s.fetchWord = .ok (.ldVxK x)) (hnone : ∀ j : Fin 16, s.keyDown j = false) :
    step s = .next s.waited := by
  rw [step_decoded hf hp hd, runInstr_eq_next]
  refine ⟨_, exec_ldVxK_of_none (s := s.fetched) hnone x, ?_⟩
  rw [s.fetched_pc_sub, State.endCycle_eq, if_pos (show (s.fetched.setPc s.pc).fsm = .ready from hf)]
  rfl

/-! ### The obligations -/

/-- Settles O6: the decoded cycle, with its first and last phase written out. -/
theorem stepRunsTheDecodedInstruction : Obligations.StepRunsTheDecodedInstruction := by
  intro s i hf hp hd
  rw [step_decoded hf hp (decodeWord_of_decode_pair hd), runInstr, State.fetched_eq]
  simp only [State.endCycle_eq]
  rfl

/-- Settles O7: the placed word is fetched whole and decodes to the instruction. -/
theorem aPlacedWordIsRunByTheNextStep : Obligations.APlacedWordIsRunByTheNextStep := by
  intro s w i hwf hd
  obtain ⟨word, ready, below⟩ := State.fetchWord_placeWord hwf (tableWord 16 w)
  exact step_decoded ready below (word.symm ▸ decodeWord_of_decodeTableWord hd)

/-- Settles O10: the word at 4094 is run as any other, and leaves `PC` where the fetch guard holds it. -/
theorem theLastWordOfMemoryIsFetchedAndThenTheGuardHolds :
    Obligations.TheLastWordOfMemoryIsFetchedAndThenTheGuardHolds := by
  intro s x kk hf hp hd
  have word : decodeWord s.fetchWord = .ok (.ldByte x kk) := by rwa [State.fetchWord, hp]
  obtain ⟨t, first, ready, hpc, reg, valid⟩ := step_ldByte hf (by omega) word
  have pc : t.pc = 0x1000 := hpc.trans (BitVec.eq_of_toNat_eq (by rw [BitVec.toNat_add, hp]; rfl))
  have toNat_pc : t.pc.toNat = 4096 := congrArg BitVec.toNat pc
  exact ⟨t, t.guardedCycle, first, toNat_pc, reg, valid, step_guarded ready (by omega), toNat_pc, reg,
    by rw [State.guardedCycle_diag, pc]⟩

/-- Settles O20: the register dump leaves the two bytes at the post-fetch `PC`, where the next cycle fetches. -/
theorem storedBytesAreFetchedByTheNextCycle : Obligations.StoredBytesAreFetchedByTheNextCycle := by
  intro s t x j j' hwf hf hp hd hfit hj' hsucc hbehind h
  rw [step_decoded hf (by omega) hd, runInstr_eq_next] at h
  obtain ⟨u, hexec, rfl⟩ := h
  obtain rfl := Host.Outcome.next.inj ((exec_storeRegs_of_le (s := s.fetched) hfit).symm.trans hexec)
  have length : (s.fetched.regsUpTo x).length = x.val + 1 := State.length_regsUpTo _ x
  have stored (r : Reg) (hr : r ≤ x) :
      (s.fetched.writeBytes s.idx.toNat (s.fetched.regsUpTo x)).readByte (s.idx.toNat + r.val) = s.reg r := by
    have lt : r.val < (s.fetched.regsUpTo x).length := by
      rw [length]
      exact Nat.lt_succ_of_le hr
    have fits : s.idx.toNat + (s.fetched.regsUpTo x).length ≤ memSize := by
      rw [length, memSize]
      omega
    rw [State.readByte_writeBytes_add (s := s.fetched) hwf fits lt]
    exact s.fetched.getD_regsUpTo x r hr
  have pc : (s.fetched.writeBytes s.idx.toNat (s.fetched.regsUpTo x)).pc.toNat = s.pc.toNat + 2 := by
    rw [State.writeBytes_sameBut _ _ _ .pc (by decide)]
    exact s.toNat_fetched_pc (by omega)
  have low : j ≤ x := Fin.le_def.mpr (by have := Fin.le_def.mp hj'; omega)
  rw [State.fetchWord, State.endCycle_pc, State.endCycle_readByte, State.endCycle_readByte, State.fetched_idx, pc,
    ← hbehind, Nat.add_assoc, hsucc, stored j low, stored j' hj']

/-- Settles O42, by induction on the number of steps: a waiting cycle leaves the core at the same LD Vx,K with the same
keys. -/
theorem withNoKeyTheCoreWaitsForever : Obligations.WithNoKeyTheCoreWaitsForever := by
  intro k
  induction k with
  | zero => exact fun s _ _ _ _ _ => ⟨s, rfl, rfl, rfl, rfl, fun p _ => s.agreeOn_refl p⟩
  | succ k ih =>
    intro s x hf hp hd hnone
    obtain ⟨t, hrun, hpc, hdt, hst, hframe⟩ := ih s.waited x hf hp hd hnone
    have dt : s.waited.dt.toNat = s.dt.toNat - 1 := toNat_countDown s.dt
    have st : s.waited.st.toNat = s.st.toNat - 1 := toNat_countDown s.st
    exact ⟨t, (core_run_succ (step_waiting hf hp hd hnone) k).trans hrun, hpc, by omega, by omega,
      s.waited_sameBut.trans hframe⟩

end Sys2Proof.Machine
end

section
/-! The shifts, RND and the round trip of the register range (42_alu.md R188 to R192; 43_index_memory.md R214, R215). -/

namespace Sys2Proof.Machine

/-! ### The shifted byte and the bit shifted out as numbers -/

theorem toNat_lowBitFlag (b : Byte) : (lowBitFlag b).toNat = b.toNat % 2 := by
  rw [lowBitFlag, toNat_flagByte, BitVec.getLsbD, Nat.testBit_zero]
  simp only [decide_eq_true_eq]
  split <;> omega

theorem toNat_highBitFlag (b : Byte) : (highBitFlag b).toNat = b.toNat / 128 := by
  have := b.isLt
  rw [highBitFlag, toNat_flagByte, BitVec.getLsbD, Nat.testBit_eq_decide_div_mod_eq]
  simp only [decide_eq_true_eq]
  split <;> omega

theorem toNat_shiftRightByte (b : Byte) : (shiftRightByte b).toNat = b.toNat / 2 := by
  have := b.isLt
  rw [shiftRightByte, BitVec.toNat_ofNat, Nat.mod_eq_of_lt (by omega)]

theorem toNat_shiftLeftByte (b : Byte) : (shiftLeftByte b).toNat = b.toNat * 2 % 256 :=
  BitVec.toNat_ofNat _ _

/-! ### The obligations -/

/-- Settles O30: each shift is a register write and a flag after it, of the source that `SHIFT_READS_VY` chooses. -/
theorem shiftsSetResultAndShiftedOutBit : Obligations.ShiftsSetResultAndShiftedOutBit := by
  intro x y s src hsrc
  have source : s.shiftSource x y = src := hsrc.symm
  refine ⟨decodeWord_group8 (i := .shr x y) (n := 0x6) rfl rfl, decodeWord_group8 (i := .shl x y) (n := 0xE) rfl rfl,
    ⟨_, rfl, s.setRegFlag_sameBut _ _ _, fun r => ?_⟩, ⟨_, rfl, s.setRegFlag_sameBut _ _ _, fun r => ?_⟩⟩
  · rw [State.toNat_setRegFlag_reg, toNat_lowBitFlag, toNat_shiftRightByte, source]
  · rw [State.toNat_setRegFlag_reg, toNat_highBitFlag, toNat_shiftLeftByte, source]

/-- Settles O31: one register write and one more draw, whatever the draw is. -/
theorem rndMasksAFreshDraw : Obligations.RndMasksAFreshDraw := by
  intro x kk s
  have written : ((s.masked x kk (Config.rndDraw s.draws)).setDraws (s.draws + 1)).reg x =
      Config.rndDraw s.draws &&& kk :=
    s.setReg_reg_same x _
  refine ⟨decodeWord_encode (i := .rnd x kk) rfl, _, rfl, (s.setReg_sameBut x _).append (State.setDraws_sameBut _ _),
    rfl, s.setReg_reg x _, fun k hk => ?clear, fun hkk => ?whole⟩
  case clear => rw [written, BitVec.getLsbD_and, hk, Bool.and_false]
  case whole =>
    rw [written, hkk]
    exact BitVec.and_allOnes

/-- Settles O36: each register of the range is read back from the byte it was stored in. -/
theorem dumpThenLoadGivesTheRegistersBack : Obligations.DumpThenLoadGivesTheRegistersBack := by
  intro x s t u hwf hfit h hcfg hmem hidx
  obtain rfl := Host.Outcome.next.inj ((exec_storeRegs_of_le hfit).symm.trans h)
  have length := s.length_regsUpTo x
  have idx : u.idx = s.idx := hidx.trans (s.writeBytes_sameBut _ _ .idx (by decide))
  refine ⟨_, exec_loadRegs_of_le (idx ▸ hfit), fun r hr => ?_⟩
  have stored := State.readByte_writeBytes_add hwf (a := s.idx.toNat) (j := r.val) (bs := s.regsUpTo x)
    (by rw [length, memSize]; omega) (by rw [length]; exact Nat.lt_succ_of_le hr)
  rw [State.loadUpTo_reg, if_pos hr, State.readByte, hcfg, hmem, idx]
  exact stored.trans (s.getD_regsUpTo x r hr)

end Sys2Proof.Machine
end

section
/-! The compositor (44_display.md R231 to R235): its loops flip the pixels of one list, each once.  So a draw inverts
exactly the pixels under the mask (R234), collides where one of them was set, and undoes itself. -/

namespace Sys2Proof.Machine

/-! ### The pixels a sprite flips, in the order of the loops -/

/-- The pixels of one sprite byte: one for each set bit (R232). -/
def rowPoints (cx cy : Byte) (r : Nat) (row : Byte) : List (Fin 64 × Fin 32) :=
  ((List.range 8).filter fun c => row.getLsbD (7 - c)).map fun c => (spriteColumn cx c, spriteRow cy r)

/-- The pixels of the sprite bytes from row `r` on (R232). -/
def spritePoints (cx cy : Byte) : Nat → List Byte → List (Fin 64 × Fin 32)
  | _, [] => []
  | r, row :: rows => rowPoints cx cy r row ++ spritePoints cx cy (r + 1) rows

/-- Flip one pixel and note whether it was set. -/
def flipPoint (acc : Framebuffer × Bool) (p : Fin 64 × Fin 32) : Framebuffer × Bool :=
  (Framebuffer.flip acc.1 p.1 p.2, acc.2 || Framebuffer.pixel acc.1 p.1 p.2)

variable {cx cy : Byte} {r : Nat} {rows : List Byte} {f : Framebuffer}

theorem drawRow_eq_foldl (cx cy : Byte) (r : Nat) (row : Byte) (acc : Framebuffer × Bool) :
    drawRow cx cy r row acc = (rowPoints cx cy r row).foldl flipPoint acc := by
  rw [rowPoints, List.foldl_map, List.foldl_filter]
  rfl

theorem drawRows_eq_foldl (cx cy : Byte) (r : Nat) (rows : List Byte) (acc : Framebuffer × Bool) :
    drawRows cx cy r rows acc = (spritePoints cx cy r rows).foldl flipPoint acc := by
  induction rows generalizing r acc with
  | nil => rfl
  | cons row rows ih => rw [drawRows, ih, drawRow_eq_foldl, spritePoints, List.foldl_append]

/-- Flipping pixels that are all different inverts these and no other, and notes whether one of them was set before
the first flip. -/
theorem foldl_flipPoint {ps : List (Fin 64 × Fin 32)} (hps : ps.Nodup) (f : Framebuffer) (hit : Bool) :
    (∀ x y, Framebuffer.pixel (ps.foldl flipPoint (f, hit)).1 x y =
      (Framebuffer.pixel f x y != decide ((x, y) ∈ ps))) ∧
    ((ps.foldl flipPoint (f, hit)).2 = true ↔ hit = true ∨ ∃ p ∈ ps, Framebuffer.pixel f p.1 p.2 = true) := by
  induction ps generalizing f hit with
  | nil => simp
  | cons p ps ih =>
    obtain ⟨hp, hnodup⟩ := List.nodup_cons.mp hps
    obtain ⟨pixel, collision⟩ := ih hnodup (Framebuffer.flip f p.1 p.2) (hit || Framebuffer.pixel f p.1 p.2)
    refine ⟨fun x y => ?_, ?_⟩
    · rw [List.foldl_cons, flipPoint, pixel, Framebuffer.pixel_flip]
      by_cases hxy : (x, y) = p
      · subst hxy
        simp [hp]
      · have other : (decide (x = p.1) && decide (y = p.2)) = false := by
          simpa [Prod.ext_iff] using hxy
        simp [hxy, other]
    · rw [List.foldl_cons, flipPoint, collision, Bool.or_eq_true, or_assoc, List.exists_mem_cons_iff]
      refine or_congr_right (or_congr_right (exists_congr fun q => and_congr_right fun hq => ?_))
      have other : (decide (q.1 = p.1) && decide (q.2 = p.2)) = false := by
        simpa [Prod.ext_iff] using ne_of_mem_of_not_mem hq hp
      rw [Framebuffer.pixel_flip, other, Bool.bne_false]

/-! ### The list of pixels is the mask -/

theorem mem_rowPoints {row : Byte} {x : Fin 64} {y : Fin 32} :
    (x, y) ∈ rowPoints cx cy r row ↔
      ∃ c, c < 8 ∧ row.getLsbD (7 - c) = true ∧ x.val = (cx.toNat + c) % 64 ∧ y.val = (cy.toNat + r) % 32 := by
  simp only [rowPoints, List.mem_map, List.mem_filter, List.mem_range, Prod.mk.injEq, spriteColumn, spriteRow,
    Fin.ext_iff, Fin.val_ofNat, and_assoc, @eq_comm _ x.val, @eq_comm _ y.val]

theorem mem_spritePoints {x : Fin 64} {y : Fin 32} :
    (x, y) ∈ spritePoints cx cy r rows ↔
      ∃ k, k < rows.length ∧ (x, y) ∈ rowPoints cx cy (r + k) (rows.getD k 0) := by
  induction rows generalizing r with
  | nil => simp [spritePoints]
  | cons row rows ih =>
    rw [spritePoints, List.mem_append, ih, List.length_cons]
    constructor
    · rintro (h | ⟨k, hk, h⟩)
      · exact ⟨0, Nat.succ_pos _, h⟩
      · exact ⟨k + 1, Nat.succ_lt_succ hk, by rwa [Nat.add_assoc, Nat.add_comm 1 k] at h⟩
    · rintro ⟨k, hk, h⟩
      cases k with
      | zero => exact .inl h
      | succ k => exact .inr ⟨k, Nat.lt_of_succ_lt_succ hk, by rwa [Nat.add_assoc, Nat.add_comm 1 k]⟩

/-- R234: the pixels the loops flip are those under the mask. -/
theorem mem_spritePoints_iff_spriteMask {x : Fin 64} {y : Fin 32} :
    (x, y) ∈ spritePoints cx cy 0 rows ↔ spriteMask cx cy rows.length (fun r => rows.getD r 0) x y := by
  simp only [mem_spritePoints, mem_rowPoints, spriteMask, Nat.zero_add, ← exists_and_left]

theorem nodup_rowPoints (cx cy : Byte) (r : Nat) (row : Byte) : (rowPoints cx cy r row).Nodup := by
  refine List.Nodup.map_on ?_ (List.nodup_range.filter _)
  intro c hc d hd h
  simp only [List.mem_filter, List.mem_range] at hc hd
  exact spriteColumn_inj hc.1 hd.1 (congrArg Prod.fst h)

/-- A sprite of at most 32 rows meets no pixel twice. -/
theorem nodup_spritePoints (cx cy : Byte) (r : Nat) (hrows : rows.length ≤ 32) : (spritePoints cx cy r rows).Nodup := by
  induction rows generalizing r with
  | nil => exact List.nodup_nil
  | cons row rows ih =>
    rw [List.length_cons] at hrows
    refine (nodup_rowPoints cx cy r row).append (ih (r + 1) (by omega)) fun ⟨x, y⟩ hfirst hrest => ?_
    obtain ⟨c, -, -, -, hy⟩ := mem_rowPoints.mp hfirst
    obtain ⟨k, hk, hpoint⟩ := mem_spritePoints.mp hrest
    obtain ⟨c', -, -, -, hy'⟩ := mem_rowPoints.mp hpoint
    omega

/-! ### The draw in its mask form -/

section Draw
variable (hrows : rows.length ≤ 32)
include hrows

/-- R234: a draw inverts the pixels under the mask. -/
theorem draw_pixel_of_mask (f : Framebuffer) {x : Fin 64} {y : Fin 32}
    (h : spriteMask cx cy rows.length (fun r => rows.getD r 0) x y) :
    Framebuffer.pixel (draw cx cy rows f).1 x y = !Framebuffer.pixel f x y := by
  have member := mem_spritePoints_iff_spriteMask.mpr h
  rw [draw, drawRows_eq_foldl, (foldl_flipPoint (nodup_spritePoints cx cy 0 hrows) f false).1]
  simp [member]

/-- R234: a draw leaves every other pixel alone. -/
theorem draw_pixel_of_not_mask (f : Framebuffer) {x : Fin 64} {y : Fin 32}
    (h : ¬ spriteMask cx cy rows.length (fun r => rows.getD r 0) x y) :
    Framebuffer.pixel (draw cx cy rows f).1 x y = Framebuffer.pixel f x y := by
  have member := mt mem_spritePoints_iff_spriteMask.mp h
  rw [draw, drawRows_eq_foldl, (foldl_flipPoint (nodup_spritePoints cx cy 0 hrows) f false).1]
  simp [member]

/-- R234: a draw collides exactly where the mask meets a set pixel. -/
theorem draw_collides_iff (f : Framebuffer) :
    (draw cx cy rows f).2 = true ↔
      ∃ x y, spriteMask cx cy rows.length (fun r => rows.getD r 0) x y ∧ Framebuffer.pixel f x y = true := by
  rw [draw, drawRows_eq_foldl, (foldl_flipPoint (nodup_spritePoints cx cy 0 hrows) f false).2]
  simp only [← mem_spritePoints_iff_spriteMask, Bool.false_eq_true, false_or, Prod.exists]

/-- R235: two identical draws give the framebuffer back. -/
theorem draw_draw (cx cy : Byte) (f : Framebuffer) : (draw cx cy rows (draw cx cy rows f).1).1 = f := by
  refine Framebuffer.ext_pixel fun x y => ?_
  by_cases h : spriteMask cx cy rows.length (fun r => rows.getD r 0) x y
  · rw [draw_pixel_of_mask hrows _ h, draw_pixel_of_mask hrows _ h, Bool.not_not]
  · rw [draw_pixel_of_not_mask hrows _ h, draw_pixel_of_not_mask hrows _ h]

/-- The second of two identical draws collides exactly where the mask met a clear pixel before the first. -/
theorem second_draw_collides_iff (f : Framebuffer) :
    (draw cx cy rows (draw cx cy rows f).1).2 = true ↔
      ∃ x y, spriteMask cx cy rows.length (fun r => rows.getD r 0) x y ∧ Framebuffer.pixel f x y = false := by
  rw [draw_collides_iff hrows]
  refine exists_congr fun x => exists_congr fun y => and_congr_right fun h => ?_
  rw [draw_pixel_of_mask hrows f h, Bool.not_eq_true']

end Draw

/-- A byte with a set bit has one in some column. -/
theorem exists_column_of_ne_zero {b : Byte} (hb : b ≠ 0) : ∃ c, c < 8 ∧ b.getLsbD (7 - c) = true := by
  obtain ⟨i, hi, hbit⟩ : ∃ i, i < 8 ∧ b.getLsbD i = true := by
    by_contra hnone
    refine hb (BitVec.eq_of_getLsbD_eq fun i hi => ?_)
    rw [BitVec.ofNat_eq_ofNat, BitVec.getLsbD_zero]
    exact Bool.eq_false_iff.mpr fun hbit => hnone ⟨i, hi, hbit⟩
  exact ⟨7 - i, by omega, by rwa [show 7 - (7 - i) = i by omega]⟩

/-- The mask has a pixel exactly when the sprite has a set bit. -/
theorem exists_spriteMask_iff :
    (∃ x y, spriteMask cx cy rows.length (fun r => rows.getD r 0) x y) ↔ ∃ b ∈ rows, b ≠ 0 := by
  constructor
  · rintro ⟨x, y, k, c, hk, -, hbit, -⟩
    have row : rows.getD k 0 = rows[k] := by simp [hk]
    refine ⟨rows[k], List.getElem_mem hk, fun zero => ?_⟩
    simp [hk, zero] at hbit
  · rintro ⟨b, hb, hne⟩
    obtain ⟨k, hk, rfl⟩ := List.mem_iff_getElem.mp hb
    obtain ⟨c, hc, hbit⟩ := exists_column_of_ne_zero hne
    exact ⟨spriteColumn cx c, spriteRow cy k, k, c, hk, hc, by simpa [hk] using hbit, rfl, rfl⟩

/-! ### DRW -/

theorem spriteMask_congr {h : Nat} {row row' : Nat → Byte} (hrow : ∀ k, k < h → row k = row' k) (x : Fin 64)
    (y : Fin 32) : spriteMask cx cy h row x y ↔ spriteMask cx cy h row' x y := by
  refine exists_congr fun k => exists_congr fun c => and_congr_right fun hk => ?_
  rw [hrow k hk]

/-- The mask of a DRW is that of the bytes it reads from memory. -/
theorem State.drwMask_iff (s : State) (x y : Reg) (n : BitVec 4) (px : Fin 64) (py : Fin 32) :
    s.drwMask x y n px py ↔
      spriteMask (s.reg x) (s.reg y) (s.readBytes s.idx.toNat n.toNat).length
        (fun k => (s.readBytes s.idx.toNat n.toNat).getD k 0) px py := by
  rw [s.length_readBytes]
  exact spriteMask_congr (fun k hk => (s.getD_readBytes _ _ k hk).symm) px py

/-- The state a DRW in bounds leaves (R231). -/
def State.sprited (s : State) (x y : Reg) (n : BitVec 4) : State :=
  s.drawn (draw (s.reg x) (s.reg y) (s.readBytes s.idx.toNat n.toNat) s.fb)

theorem exec_drw_of_le {s : State} {n : BitVec 4} (h : s.idx.toNat + n.toNat ≤ 4096) (x y : Reg) :
    exec (.drw x y n) s = .next (s.sprited x y n) :=
  if_pos ((s.inBounds_iff n.toNat).mpr h)

theorem exec_drw_of_gt {s : State} {n : BitVec 4} (h : s.idx.toNat + n.toNat > 4096) (x y : Reg) :
    exec (.drw x y n) s = .next ((s.setReg vF 0).raiseAt .spriteOutOfBounds (.drw x y n)) :=
  if_neg (mt (s.inBounds_iff n.toNat).mp (Nat.not_le.mpr h))

theorem State.drawn_reg (s : State) (d : Framebuffer × Bool) (r : Reg) :
    (s.drawn d).reg r = if r = vF then collisionFlag d.2 else s.reg r :=
  (s.setFb d.1).setReg_reg vF (collisionFlag d.2) r

/-! ### The obligations -/

/-- Settles O38: the draw in its mask form, whose list of bytes is the sprite in memory, or its rejection. -/
theorem drwXorsTheSpriteMaskAndReportsCollision : Obligations.DrwXorsTheSpriteMaskAndReportsCollision := by
  intro x y n s
  refine ⟨decodeWord_encode (i := .drw x y n) rfl, fun hfit => ?drawn, fun hout => ?rejected⟩
  case drawn =>
    have hrows : (s.readBytes s.idx.toNat n.toNat).length ≤ 32 := by
      have := n.isLt
      rw [s.length_readBytes]
      omega
    have collides := draw_collides_iff (cx := s.reg x) (cy := s.reg y) hrows s.fb
    simp only [← State.drwMask_iff] at collides
    refine ⟨s.sprited x y n, exec_drw_of_le hfit x y, s.drawn_sameBut _, rfl, fun px py => ⟨fun h => ?_, fun h => ?_⟩,
      fun h => ?_, fun h => ?_, fun r hr => ?_⟩
    · exact draw_pixel_of_mask hrows s.fb ((s.drwMask_iff x y n px py).mp h)
    · exact draw_pixel_of_not_mask hrows s.fb (mt (s.drwMask_iff x y n px py).mpr h)
    · rw [State.sprited, State.drawn_reg, if_pos rfl, collides.mpr h]
      rfl
    · rw [State.sprited, State.drawn_reg, if_pos rfl, Bool.eq_false_iff.mpr (mt collides.mp h)]
      rfl
    · rw [State.sprited, State.drawn_reg, if_neg hr]
  case rejected =>
    exact ⟨_, exec_drw_of_gt hout x y, (s.setReg_sameBut _ _).append (State.raiseAt_sameBut _ _ _),
      s.setReg_reg vF 0, rfl⟩

/-- Settles O39: the second draw undoes the first pixel by pixel, and collides where the first met a clear pixel. -/
theorem drawingTwiceIsAnInvolution : Obligations.DrawingTwiceIsAnInvolution := by
  intro cx cy rows f hlen
  have hrows : rows.length ≤ 32 := by omega
  refine ⟨draw_draw hrows cx cy f, second_draw_collides_iff hrows f, fun blank => ⟨?first, ?second⟩⟩
  case first =>
    rw [← Bool.not_eq_true, draw_collides_iff hrows]
    rintro ⟨x, y, hmask, hset⟩
    exact absurd hset (Bool.eq_false_iff.mp (blank x y hmask))
  case second =>
    rw [second_draw_collides_iff hrows, ← exists_spriteMask_iff (cx := cx) (cy := cy)]
    exact exists_congr fun x => exists_congr fun y => and_iff_left_of_imp (blank x y)

/-- Settles O57: unless every pixel under the mask was set, the mask has a clear pixel exactly when it has one at all;
where all were set no compositor that meets R234 collides (`second_draw_misses_a_set_region`). -/
theorem theSecondDrawCollidesUnlessAllItsPixelsWereSet :
    Obligations.TheSecondDrawCollidesUnlessAllItsPixelsWereSet := by
  intro cx cy rows f hlen allSet
  have hrows : rows.length ≤ 32 := by omega
  refine ⟨fun hnot => ?collides, fun h => ?misses⟩
  case collides =>
    rw [second_draw_collides_iff hrows]
    constructor
    · rintro ⟨x, y, hmask, -⟩
      exact exists_spriteMask_iff.mp ⟨x, y, hmask⟩
    · intro hbit
      by_contra hnone
      refine hnot ⟨hbit, fun x y hmask => Bool.not_eq_false _ ▸ fun hclear => hnone ⟨x, y, hmask, hclear⟩⟩
  case misses =>
    exact second_draw_misses_a_set_region (fun f _ _ => draw_pixel_of_mask hrows f) (draw_collides_iff hrows) h.2

end Sys2Proof.Machine
end
